-- ==== Sys2Proof/Word.lean ====
section
/-! DEFINITION. The machine's words: bytes, addresses, instruction words, nibbles (00_scope.md R5, R8, R9).
Every quantity is unsigned; there is no sign extension anywhere (R9). -/

namespace Sys2Proof

/-- An 8-bit value: a general register, a timer, a memory byte, the immediate NN. -/
abbrev Byte := BitVec 8

/-- A 12-bit value: a memory address, the program counter, a return address, the immediate NNN. -/
abbrev Addr := BitVec 12

/-- A 16-bit value: an instruction word, the index register I. -/
abbrev Word := BitVec 16

/-- A 4-bit value: a register number, a key index, the immediate N. -/
abbrev Nibble := BitVec 4

end Sys2Proof
end

