-- ==== Sys2Proof/Syntax.lean ====
section
/-! DEFINITION. The 34 instructions (30_encoding.md R76), one constructor per row of spec/opcode_table.json, in the
table's order. A constructor is named `op` and the spec's pattern (R11); its docstring gives the alias of R84. -/

namespace Sys2Proof

/-- One instruction with its decoded operands. The operand types are the fields' own widths (R71), so an operand out
of its field's range cannot be written down. -/
inductive Instr where
  /-- `CLS` (R170) -/
  | op00E0
  /-- `RET` (R110) -/
  | op00EE
  /-- `JP addr` (R111) -/
  | op1NNN (nnn : Addr)
  /-- `CALL addr` (R112) -/
  | op2NNN (nnn : Addr)
  /-- `SE Vx, byte` (R113) -/
  | op3XNN (x : Nibble) (nn : Byte)
  /-- `SNE Vx, byte` (R114) -/
  | op4XNN (x : Nibble) (nn : Byte)
  /-- `SE Vx, Vy` (R115) -/
  | op5XY0 (x y : Nibble)
  /-- `LD Vx, byte` (R130) -/
  | op6XNN (x : Nibble) (nn : Byte)
  /-- `ADD Vx, byte` (R131) -/
  | op7XNN (x : Nibble) (nn : Byte)
  /-- `LD Vx, Vy` (R132) -/
  | op8XY0 (x y : Nibble)
  /-- `OR Vx, Vy` (R133) -/
  | op8XY1 (x y : Nibble)
  /-- `AND Vx, Vy` (R134) -/
  | op8XY2 (x y : Nibble)
  /-- `XOR Vx, Vy` (R135) -/
  | op8XY3 (x y : Nibble)
  /-- `ADD Vx, Vy` (R136) -/
  | op8XY4 (x y : Nibble)
  /-- `SUB Vx, Vy` (R137) -/
  | op8XY5 (x y : Nibble)
  /-- `SHR Vx, Vy` (R138) -/
  | op8XY6 (x y : Nibble)
  /-- `SUBN Vx, Vy` (R139) -/
  | op8XY7 (x y : Nibble)
  /-- `SHL Vx, Vy` (R140) -/
  | op8XYE (x y : Nibble)
  /-- `SNE Vx, Vy` (R116) -/
  | op9XY0 (x y : Nibble)
  /-- `LD I, addr` (R150) -/
  | opANNN (nnn : Addr)
  /-- `JP V0, addr` (R117) -/
  | opBNNN (nnn : Addr)
  /-- `RND Vx, byte` (R145) -/
  | opCXNN (x : Nibble) (nn : Byte)
  /-- `DRW Vx, Vy, nibble` (R171, R172) -/
  | opDXYN (x y n : Nibble)
  /-- `SKP Vx` (R190) -/
  | opEX9E (x : Nibble)
  /-- `SKNP Vx` (R191) -/
  | opEXA1 (x : Nibble)
  /-- `LD Vx, DT` (R192) -/
  | opFX07 (x : Nibble)
  /-- `LD Vx, K` (R193) -/
  | opFX0A (x : Nibble)
  /-- `LD DT, Vx` (R194) -/
  | opFX15 (x : Nibble)
  /-- `LD ST, Vx` (R195) -/
  | opFX18 (x : Nibble)
  /-- `ADD I, Vx` (R151) -/
  | opFX1E (x : Nibble)
  /-- `LD F, Vx` (R152) -/
  | opFX29 (x : Nibble)
  /-- `LD B, Vx` (R153) -/
  | opFX33 (x : Nibble)
  /-- `LD [I], Vx` (R154) -/
  | opFX55 (x : Nibble)
  /-- `LD Vx, [I]` (R155) -/
  | opFX65 (x : Nibble)
  deriving DecidableEq, Repr

end Sys2Proof
end

