-- ==== Sys2Proof/Decode.lean ====
section
/-! DEFINITION. Decoding (30_encoding.md R70 to R81) and encoding. The decoder is a pure, total function of the word
(R71, R81); a word that matches none of the 34 patterns is rejected by name (R77). -/

namespace Sys2Proof

/-- Why bytes are no instruction. -/
inductive DecodeError where
  /-- The word matches none of the 34 patterns (R77). -/
  | unimplementedOpcode (w : Word)
  /-- Fewer than the two bytes of an instruction (R70). -/
  | truncated
  deriving DecidableEq, Repr

/-- C = bits 15..12 (R71). -/
def fieldC (w : Word) : Nibble := w.extractLsb' 12 4
/-- X = bits 11..8 (R71). -/
def fieldX (w : Word) : Nibble := w.extractLsb' 8 4
/-- Y = bits 7..4 (R71). -/
def fieldY (w : Word) : Nibble := w.extractLsb' 4 4
/-- N = bits 3..0 (R71). -/
def fieldN (w : Word) : Nibble := w.extractLsb' 0 4
/-- NN = bits 7..0 (R71). -/
def fieldNN (w : Word) : Byte := w.extractLsb' 0 8
/-- NNN = bits 11..0 (R71). -/
def fieldNNN (w : Word) : Addr := w.extractLsb' 0 12

/-- C = 0: only the whole words 0x00E0 and 0x00EE (R75). -/
def decode0 (nnn : Addr) : Option Instr :=
  match nnn with
  | 0x0E0 => some .op00E0
  | 0x0EE => some .op00EE
  | _ => none

/-- C = 8: N selects (R75). -/
def decode8 (x y n : Nibble) : Option Instr :=
  match n with
  | 0x0 => some (.op8XY0 x y)
  | 0x1 => some (.op8XY1 x y)
  | 0x2 => some (.op8XY2 x y)
  | 0x3 => some (.op8XY3 x y)
  | 0x4 => some (.op8XY4 x y)
  | 0x5 => some (.op8XY5 x y)
  | 0x6 => some (.op8XY6 x y)
  | 0x7 => some (.op8XY7 x y)
  | 0xE => some (.op8XYE x y)
  | _ => none

/-- C = E: NN selects (R75). -/
def decodeE (x : Nibble) (nn : Byte) : Option Instr :=
  match nn with
  | 0x9E => some (.opEX9E x)
  | 0xA1 => some (.opEXA1 x)
  | _ => none

/-- C = F: NN selects (R75). -/
def decodeF (x : Nibble) (nn : Byte) : Option Instr :=
  match nn with
  | 0x07 => some (.opFX07 x)
  | 0x0A => some (.opFX0A x)
  | 0x15 => some (.opFX15 x)
  | 0x18 => some (.opFX18 x)
  | 0x1E => some (.opFX1E x)
  | 0x29 => some (.opFX29 x)
  | 0x33 => some (.opFX33 x)
  | 0x55 => some (.opFX55 x)
  | 0x65 => some (.opFX65 x)
  | _ => none

/-- The opcode map by category nibble C (R75), over the six fields (R71). -/
def decodeFields (c x y n : Nibble) (nn : Byte) (nnn : Addr) : Option Instr :=
  match c with
  | 0x0 => decode0 nnn
  | 0x1 => some (.op1NNN nnn)
  | 0x2 => some (.op2NNN nnn)
  | 0x3 => some (.op3XNN x nn)
  | 0x4 => some (.op4XNN x nn)
  | 0x5 => if n = 0 then some (.op5XY0 x y) else none
  | 0x6 => some (.op6XNN x nn)
  | 0x7 => some (.op7XNN x nn)
  | 0x8 => decode8 x y n
  | 0x9 => if n = 0 then some (.op9XY0 x y) else none
  | 0xA => some (.opANNN nnn)
  | 0xB => some (.opBNNN nnn)
  | 0xC => some (.opCXNN x nn)
  | 0xD => some (.opDXYN x y n)
  | 0xE => decodeE x nn
  | 0xF => decodeF x nn
  | _ => none

/-- The decoder: one word to the instruction it is, or `none` where it is illegal (R74, R77). -/
def decodeWord (w : Word) : Option Instr :=
  decodeFields (fieldC w) (fieldX w) (fieldY w) (fieldN w) (fieldNN w) (fieldNNN w)

/-- Two bytes as they lie in memory, high byte at the lower address, make a word: `(mem[PC] << 8) | mem[PC+1]`
(20_memory.md R53). -/
def wordOfBytes (hi lo : Byte) : Word := hi.setWidth 16 <<< 8 ||| lo.setWidth 16

/-- The byte of a word stored at the lower address (R53). -/
def hiByte (w : Word) : Byte := w.extractLsb' 8 8
/-- The byte of a word stored at the higher address (R53). -/
def loByte (w : Word) : Byte := w.extractLsb' 0 8

/-- Decode the instruction at the head of any list of bytes: the instruction and the bytes after it, or the reason
there is none. Total. -/
def decodeBytes : List Byte → Except DecodeError (Instr × List Byte)
  | hi :: lo :: rest =>
    match decodeWord (wordOfBytes hi lo) with
    | some i => .ok (i, rest)
    | none => .error (.unimplementedOpcode (wordOfBytes hi lo))
  | _ => .error .truncated

/-- The instruction the decoder reads from an instruction whose bits are `w`, numbered as spec/opcode_table.json numbers
them. Every instruction is one 16-bit word (R70), so bits from 16 up make no instruction. The word is laid out in
memory order, high byte first, and given to the byte decoder. -/
def decodeTableWord (nbits w : Nat) : Option Instr :=
  if w < 2 ^ nbits ∧ w < 2 ^ 16 then
    match decodeBytes [hiByte (BitVec.ofNat 16 w), loByte (BitVec.ofNat 16 w)] with
    | .ok (i, _) => some i
    | .error _ => none
  else none

/-- Formats XY and XYN: C, X, Y, N from the top (R72). -/
def wordXYN (c x y n : Nibble) : Word :=
  c.setWidth 16 <<< 12 ||| x.setWidth 16 <<< 8 ||| y.setWidth 16 <<< 4 ||| n.setWidth 16
/-- Formats XNN and X: C, X, NN from the top (R72). -/
def wordXNN (c x : Nibble) (nn : Byte) : Word := c.setWidth 16 <<< 12 ||| x.setWidth 16 <<< 8 ||| nn.setWidth 16
/-- Formats NNN and FIXED: C, NNN from the top (R72). -/
def wordNNN (c : Nibble) (nnn : Addr) : Word := c.setWidth 16 <<< 12 ||| nnn.setWidth 16

/-- The word of an instruction: the pattern of R76 with the operands in their fields (R71). -/
def encode : Instr → Word
  | .op00E0 => wordNNN 0x0 0x0E0
  | .op00EE => wordNNN 0x0 0x0EE
  | .op1NNN nnn => wordNNN 0x1 nnn
  | .op2NNN nnn => wordNNN 0x2 nnn
  | .op3XNN x nn => wordXNN 0x3 x nn
  | .op4XNN x nn => wordXNN 0x4 x nn
  | .op5XY0 x y => wordXYN 0x5 x y 0x0
  | .op6XNN x nn => wordXNN 0x6 x nn
  | .op7XNN x nn => wordXNN 0x7 x nn
  | .op8XY0 x y => wordXYN 0x8 x y 0x0
  | .op8XY1 x y => wordXYN 0x8 x y 0x1
  | .op8XY2 x y => wordXYN 0x8 x y 0x2
  | .op8XY3 x y => wordXYN 0x8 x y 0x3
  | .op8XY4 x y => wordXYN 0x8 x y 0x4
  | .op8XY5 x y => wordXYN 0x8 x y 0x5
  | .op8XY6 x y => wordXYN 0x8 x y 0x6
  | .op8XY7 x y => wordXYN 0x8 x y 0x7
  | .op8XYE x y => wordXYN 0x8 x y 0xE
  | .op9XY0 x y => wordXYN 0x9 x y 0x0
  | .opANNN nnn => wordNNN 0xA nnn
  | .opBNNN nnn => wordNNN 0xB nnn
  | .opCXNN x nn => wordXNN 0xC x nn
  | .opDXYN x y n => wordXYN 0xD x y n
  | .opEX9E x => wordXNN 0xE x 0x9E
  | .opEXA1 x => wordXNN 0xE x 0xA1
  | .opFX07 x => wordXNN 0xF x 0x07
  | .opFX0A x => wordXNN 0xF x 0x0A
  | .opFX15 x => wordXNN 0xF x 0x15
  | .opFX18 x => wordXNN 0xF x 0x18
  | .opFX1E x => wordXNN 0xF x 0x1E
  | .opFX29 x => wordXNN 0xF x 0x29
  | .opFX33 x => wordXNN 0xF x 0x33
  | .opFX55 x => wordXNN 0xF x 0x55
  | .opFX65 x => wordXNN 0xF x 0x65

/-- The two bytes of an instruction in memory order, high byte first (R53, R70). -/
def encodeBytes (i : Instr) : List Byte := [hiByte (encode i), loByte (encode i)]

/-- The spec's name of an instruction: its pattern (00_scope.md R11). -/
def Instr.pattern : Instr → String
  | .op00E0 => "00E0"
  | .op00EE => "00EE"
  | .op1NNN _ => "1NNN"
  | .op2NNN _ => "2NNN"
  | .op3XNN _ _ => "3XNN"
  | .op4XNN _ _ => "4XNN"
  | .op5XY0 _ _ => "5XY0"
  | .op6XNN _ _ => "6XNN"
  | .op7XNN _ _ => "7XNN"
  | .op8XY0 _ _ => "8XY0"
  | .op8XY1 _ _ => "8XY1"
  | .op8XY2 _ _ => "8XY2"
  | .op8XY3 _ _ => "8XY3"
  | .op8XY4 _ _ => "8XY4"
  | .op8XY5 _ _ => "8XY5"
  | .op8XY6 _ _ => "8XY6"
  | .op8XY7 _ _ => "8XY7"
  | .op8XYE _ _ => "8XYE"
  | .op9XY0 _ _ => "9XY0"
  | .opANNN _ => "ANNN"
  | .opBNNN _ => "BNNN"
  | .opCXNN _ _ => "CXNN"
  | .opDXYN _ _ _ => "DXYN"
  | .opEX9E _ => "EX9E"
  | .opEXA1 _ => "EXA1"
  | .opFX07 _ => "FX07"
  | .opFX0A _ => "FX0A"
  | .opFX15 _ => "FX15"
  | .opFX18 _ => "FX18"
  | .opFX1E _ => "FX1E"
  | .opFX29 _ => "FX29"
  | .opFX33 _ => "FX33"
  | .opFX55 _ => "FX55"
  | .opFX65 _ => "FX65"

/-- A row of the opcode table: "a word w is the instruction when `(w & mask) == match`" (R76). -/
structure OpcodeRow where
  pattern : String
  bits : Word
  mask : Word
  deriving DecidableEq, Repr

/-- The opcode table of R76, in its order. The decoder above is written from the map of R75; that the two agree is a
statement (`Obligations.DecodeAgreesWithMaskAndMatch`). -/
def opcodeRows : List OpcodeRow :=
  [⟨"00E0", 0x00E0, 0xFFFF⟩, ⟨"00EE", 0x00EE, 0xFFFF⟩, ⟨"1NNN", 0x1000, 0xF000⟩, ⟨"2NNN", 0x2000, 0xF000⟩,
   ⟨"3XNN", 0x3000, 0xF000⟩, ⟨"4XNN", 0x4000, 0xF000⟩, ⟨"5XY0", 0x5000, 0xF00F⟩, ⟨"6XNN", 0x6000, 0xF000⟩,
   ⟨"7XNN", 0x7000, 0xF000⟩] ++
  [⟨"8XY0", 0x8000, 0xF00F⟩, ⟨"8XY1", 0x8001, 0xF00F⟩, ⟨"8XY2", 0x8002, 0xF00F⟩, ⟨"8XY3", 0x8003, 0xF00F⟩,
   ⟨"8XY4", 0x8004, 0xF00F⟩, ⟨"8XY5", 0x8005, 0xF00F⟩, ⟨"8XY6", 0x8006, 0xF00F⟩, ⟨"8XY7", 0x8007, 0xF00F⟩,
   ⟨"8XYE", 0x800E, 0xF00F⟩, ⟨"9XY0", 0x9000, 0xF00F⟩] ++
  [⟨"ANNN", 0xA000, 0xF000⟩, ⟨"BNNN", 0xB000, 0xF000⟩, ⟨"CXNN", 0xC000, 0xF000⟩, ⟨"DXYN", 0xD000, 0xF000⟩,
   ⟨"EX9E", 0xE09E, 0xF0FF⟩, ⟨"EXA1", 0xE0A1, 0xF0FF⟩] ++
  [⟨"FX07", 0xF007, 0xF0FF⟩, ⟨"FX0A", 0xF00A, 0xF0FF⟩, ⟨"FX15", 0xF015, 0xF0FF⟩, ⟨"FX18", 0xF018, 0xF0FF⟩,
   ⟨"FX1E", 0xF01E, 0xF0FF⟩, ⟨"FX29", 0xF029, 0xF0FF⟩, ⟨"FX33", 0xF033, 0xF0FF⟩, ⟨"FX55", 0xF055, 0xF0FF⟩,
   ⟨"FX65", 0xF065, 0xF0FF⟩]

end Sys2Proof
end

