-- ==== Sys2Proof/Config.lean ====
section
/-! DEFINITION. Fixed sizes (00_scope.md R5), the construction parameters RESET takes (R6) and the one free value:
the random source's answers (42_alu.md R145). -/

namespace Sys2Proof

/-- `QUIRKS`, the immutable configuration record (10_state.md R31, 00_scope.md R6). -/
structure Quirks where
  /-- 8XY6 and 8XYE shift VY into VX (true) or shift VX in place (false). -/
  shiftUsesVy : Bool
  /-- FX55 and FX65 leave I = I + X + 1 (true) or leave I unchanged (false). -/
  loadStoreIncrementsI : Bool
  /-- BNNN adds V[NNN[11:8]] (true) or V0 (false). -/
  jumpOffsetUsesVx : Bool
  /-- FX1E sets VF on a sum above 0x0FFF (true) or never touches VF (false). -/
  addISetsVf : Bool
  deriving DecidableEq, Repr

/-- A set of key indices, as the keypad holds it: entry k is true when key k is in the set (10_state.md R30). -/
abbrev KeySet := Vector Bool 16

/-- `KEY_SELECT` as plain data: the pressed-key sets for which it does NOT report the lowest index, each with the key
it reports. The empty table is the default, lowest index (00_scope.md R6). Every function from non-empty key sets to
members is such a table. DESIGN CHOICE (log entry 3), safe: the table loses no function. -/
abbrev KeySelect := List (KeySet × Nibble)

namespace Config

/-- `MEM_SIZE` (R5). -/
abbrev memSize : Nat := 4096
/-- `ROM_BASE`, the entry point and the reset value of PC (R5, 70_reset_and_hazards.md R241). -/
abbrev romBase : Nat := 0x200
/-- `ROM_MAX` (R5). -/
abbrev romMax : Nat := 3584
/-- `FONT_BASE` (R5). -/
abbrev fontBase : Nat := 0x050
/-- `FONT_SIZE` (R5). -/
abbrev fontSize : Nat := 80
/-- `STACK_DEPTH` (R5). -/
abbrev stackDepth : Nat := 16
/-- `FB_COLS` (R5). -/
abbrev fbCols : Nat := 64
/-- `FB_ROWS` (R5). -/
abbrev fbRows : Nat := 32

/-- The reference configuration: all four booleans false (00_scope.md R6, 92_eei_decisions.md D13, D14). -/
def quirks : Quirks := ⟨false, false, false, false⟩

/-- The default `KEY_SELECT`: the lowest index (00_scope.md R6, D12). -/
def keySelect : KeySelect := []

/-- FREE VALUE. The random source's answer to the n-th sample, for the host's `step`, which has no `rand` argument
(40_step_cycle.md R105: "a model treats each sample as a free draw from 0..255"). It has no body, so nothing can be
proved about its value. -/
opaque freeRand : Nat → Byte

end Config
end Sys2Proof
end

