-- ==== Sys2Proof/Machine/State.lean ====
section
/-! DEFINITION. The complete state of the core (10_state.md R20), the reasons a step can stop, and the state right after
RESET (70_reset_and_hazards.md R240). -/

namespace Sys2Proof.Machine

/-- Memory: the bytes that differ from `Config.resetByte`, by strictly rising address. -/
abbrev Memory := List Host.Cell

/-- `fb[r][c]`: 32 rows of 64 cells, true is lit (10_state.md R29). -/
abbrev Framebuffer := Vector (Vector Bool 64) 32

/-- `RUNSTATE` (10_state.md R32). -/
inductive RunState where
  /-- STEP executes instructions. -/
  | run
  /-- A fault has occurred; only RESET acts. -/
  | halted
  deriving DecidableEq, Repr

/-- `FAULT_CAUSE` (10_state.md R32, 60_exceptions.md R210). -/
inductive FaultCause where
  | none
  | unimplementedOpcode
  | stackOverflow
  | stackUnderflow
  | fetchOutOfRange
  deriving DecidableEq, Repr

/-- The complete state of the core (R20), the latched `KEY_SELECT` (R240) and the model's own count of free values. The
random byte `rand` is no field: it is an argument (10_state.md R35; `stepWith`, `execWith`). -/
structure State where
  /-- Memory, 4096 bytes (20_memory.md R50). -/
  mem : Memory
  /-- The general registers V0 to VF (R21). VF, index 15, is the flag register (R22). -/
  v : Vector Byte 16
  /-- The program counter (R23). -/
  pc : Addr
  /-- The index register I, 16 bits (R26). -/
  i : Word
  /-- The return stack (R27). -/
  stack : Vector Addr 16
  /-- The stack pointer, five bits, 0..16 (R27). -/
  sp : BitVec 5
  /-- The delay timer (R28). -/
  dt : Byte
  /-- The sound timer (R28). -/
  st : Byte
  /-- The framebuffer (R29). -/
  fb : Framebuffer
  /-- The keypad, true is pressed (R30). -/
  key : KeySet
  /-- The quirk configuration (R31). -/
  quirks : Quirks
  /-- The key-selection rule RESET latched (00_scope.md R6, 70_reset_and_hazards.md R240). -/
  keySelect : KeySelect
  /-- `RUNSTATE` (R32). -/
  runState : RunState
  /-- `FAULT_CAUSE` (R32). -/
  faultCause : FaultCause
  /-- `FAULT_PC` (R32). -/
  faultPc : Addr
  /-- `FAULT_OP` with its valid bit: `none` is "not valid" (R32). -/
  faultOp : Option Word
  /-- The MODEL'S OWN, no state of the spec (10_state.md R33): how many CXNN the host's `step`, which takes no `rand`
  argument, has run; the argument of the free value `Config.freeRand`. DESIGN CHOICE (log entry 4), safe
  for one run, unsafe where two runs with equal counts are compared. -/
  samples : Nat
  deriving DecidableEq, Repr

/-- The reasons a step has no next state. The spec's own four fatal faults are NOT among them: their entry is described
(60_exceptions.md R213), so a step that takes one answers a next state with `runState = halted`. -/
inductive Fault where
  /-- Raised by 2NNN and 00EE when SP holds 17..31. The spec says SP holds 0..16 (10_state.md R20, R34) and gives these
  values no meaning; no step, operation or reset produces them. DESIGN CHOICE (log entry 6), safe: the machine stops. -/
  | stackPointerOutOfRange
  deriving DecidableEq, Repr

/-- The reasons the model gives an instruction no meaning. -/
inductive Refusal where
  /-- Raised by `exec` for an instruction of the table that has no meaning yet; safe. No arm of `exec` raises it. -/
  | notModelled (mnemonic : String)
  deriving DecidableEq, Repr

/-- The state right after RESET with the reference configuration and before LOAD_ROM (R20, R240): memory at its reset
contents, PC = 0x200, everything else zero, RUN, no fault. -/
def State.reset : State where
  mem := []
  v := Vector.replicate 16 0
  pc := 0x200
  i := 0
  stack := Vector.replicate 16 0
  sp := 0
  dt := 0
  st := 0
  fb := Vector.replicate 32 (Vector.replicate 64 false)
  key := Vector.replicate 16 false
  quirks := Config.quirks
  keySelect := Config.keySelect
  runState := .run
  faultCause := .none
  faultPc := 0
  faultOp := Option.none
  samples := 0

end Sys2Proof.Machine
end

