-- ==== Sys2Proof/Machine/Operands.lean ====
section
/-! DEFINITION. The operand forms (30_encoding.md R71 to R73, 43_index_memory.md R156): a general register, the index
register as a data address, the shift source and the jump offset under their quirks, a key index, and the result
operands. Every read and write of a register goes through these. -/

namespace Sys2Proof.Machine

/-- `V[r]`, any of the 16 registers (10_state.md R21). -/
def State.getV (s : State) (r : Nibble) : Byte := s.v[r.toNat]'r.isLt

/-- `V[r] <- b` (R21). -/
def State.setV (s : State) (r : Nibble) (b : Byte) : State := { s with v := s.v.set r.toNat b r.isLt }

/-- VF, the flag register, is register 15 (R22). -/
abbrev vf : Nibble := 0xF

/-- `PC <- t` (10_state.md R23). -/
def State.setPc (s : State) (t : Addr) : State := { s with pc := t }

/-- `I <- w` (R26). -/
def State.setI (s : State) (w : Word) : State := { s with i := w }

/-- `DT <- b` (R28). -/
def State.setDt (s : State) (b : Byte) : State := { s with dt := b }

/-- `ST <- b` (R28). -/
def State.setSt (s : State) (b : Byte) : State := { s with st := b }

/-- `EA(k) = (I + k) mod 4096`, the address of the k-th byte of a data access (20_memory.md R54). -/
def State.ea (s : State) (k : Nat) : Addr := BitVec.ofNat 12 (s.i.toNat + k)

/-- The value 8XY6 and 8XYE shift: VY under `shift_uses_vy`, else VX (42_alu.md R138, R140). -/
def State.shiftSource (s : State) (x y : Nibble) : Byte := if s.quirks.shiftUsesVy then s.getV y else s.getV x

/-- The register number a BNNN names under its quirk: X = NNN[11:8] (41_flow.md R117). -/
def jumpRegister (nnn : Addr) : Nibble := nnn.extractLsb' 8 4

/-- The offset of BNNN: V[NNN[11:8]] under `jump_offset_uses_vx`, else V0 (R117). -/
def State.jumpOffset (s : State) (nnn : Addr) : Byte :=
  if s.quirks.jumpOffsetUsesVx then s.getV (jumpRegister nnn) else s.getV 0

/-- The key index in a register: its low nibble (45_keypad_timers.md R190). -/
def keyIndex (b : Byte) : Nibble := b.extractLsb' 0 4

/-- Is key k in the set? `key[k] == 1` (10_state.md R30). -/
def keyDown (keys : KeySet) (k : Nibble) : Bool := keys[k.toNat]'k.isLt

/-- The address of the glyph a register names: 0x050 + (VX & 0xF) * 5 (43_index_memory.md R152). -/
def glyphAddress (b : Byte) : Word := BitVec.ofNat 16 (Config.fontBase + b.toNat % 16 * 5)

/-- The k-th of the three decimal digits of a byte: hundreds, tens, units (R153). -/
def bcdDigit (b : Byte) (k : Nat) : Byte :=
  match k with
  | 0 => BitVec.ofNat 8 (b.toNat / 100)
  | 1 => BitVec.ofNat 8 (b.toNat / 10 % 10)
  | _ => BitVec.ofNat 8 (b.toNat % 10)

/-- The sixteen key indices in ascending order. -/
def keyIndices : List Nibble := [0, 1, 2, 3, 4, 5, 6, 7, 8, 9, 10, 11, 12, 13, 14, 15]

/-- The default KEY_SELECT: the lowest index in the set; none in the empty set (00_scope.md R6, 45_keypad_timers.md R193). -/
def lowestKey (keys : KeySet) : Option Nibble := keyIndices.find? (keyDown keys)

/-- `KEY_SELECT(P)`: what the latched table reports for the set, else the lowest index. An entry that names no member of
its set is not used, so the answer is always a member (00_scope.md R6). None in the empty set. -/
def selectKey (table : KeySelect) (keys : KeySet) : Option Nibble :=
  match table.find? fun e => e.1 = keys with
  | some e => if keyDown keys e.2 then some e.2 else lowestKey keys
  | none => lowestKey keys

/-- The byte the random source answers to the next CXNN of the host's `step`: a free value, a fresh one for each sample
(40_step_cycle.md R105, 42_alu.md R145; log entry 4). -/
def State.randByte (s : State) : Byte := Config.freeRand s.samples

/-- One sample has been taken (R105: "Each execution of CXNN samples it exactly once"). -/
def State.takeRand (s : State) : State := { s with samples := s.samples + 1 }

/-- `V[X] <- rand & NN`, the byte on the random input an argument (R145, 10_state.md R35). -/
def State.loadRandom (s : State) (rand : Byte) (x : Nibble) (nn : Byte) : State := s.setV x (rand &&& nn)

end Sys2Proof.Machine
end

