-- ==== Sys2Proof/Machine/Flags.lean ====
section
/-! DEFINITION. Every flag computation (10_state.md R22, 42_alu.md R146). VF is the only flag; these compute the value
an instruction leaves in it, each from the exact, unbounded result. -/

namespace Sys2Proof.Machine

/-- A flag as the byte VF holds: 1 or 0. -/
def flagByte (b : Bool) : Byte := if b then 1 else 0

/-- The carry of 8XY4: "1 if VX + VY > 255" (42_alu.md R136). -/
def carryOut (a b : Byte) : Bool := a.toNat + b.toNat > 255

/-- The no-borrow bit of 8XY5 and 8XY7: the minuend is at least the subtrahend (R137, R139). -/
def noBorrow (minuend subtrahend : Byte) : Bool := minuend.toNat ≥ subtrahend.toNat

/-- The bit 8XY6 shifts out: bit 0 of the value shifted (R138). -/
def rightShiftOut (t : Byte) : Bool := t.getLsbD 0

/-- The bit 8XYE shifts out: bit 7 of the value shifted (R140). -/
def leftShiftOut (t : Byte) : Bool := t.getLsbD 7

/-- The overflow FX1E's quirk detects: the sum passes 0x0FFF, not 0xFFFF (43_index_memory.md R151, C11). -/
def indexOverflow (i : Word) (b : Byte) : Bool := i.toNat + b.toNat > 0x0FFF

/-- `VF <- 1` or `VF <- 0`. -/
def State.setFlag (s : State) (b : Bool) : State := s.setV vf (flagByte b)

/-- A result and then the flag: VX is written first and VF last, so with X = F the flag is what remains
(00_scope.md R12, 42_alu.md R147). -/
def State.setResultAndFlag (s : State) (x : Nibble) (result : Byte) (flag : Bool) : State :=
  (s.setV x result).setFlag flag

end Sys2Proof.Machine
end

