-- ==== Sys2Proof/Machine/Ops.lean ====
section
/-! DEFINITION. The reset contents of memory, and the named operations over memory, registers and the program counter,
and taking a fault: written once, called by the meanings. -/

namespace Sys2Proof.Config

/-- The conventional CHIP-8 font, glyph 0 to glyph F, five bytes each: the default of the parameter `FONT`
(20_memory.md R57). PRESUMED (log entry 1): the spec itself marks these bytes as general knowledge, unsafe for any
claim about a glyph's pixels; no statement of this package rests on them. -/
def fontBytes : List Byte :=
  [0xF0, 0x90, 0x90, 0x90, 0xF0] ++ [0x20, 0x60, 0x20, 0x20, 0x70] ++
  [0xF0, 0x10, 0xF0, 0x80, 0xF0] ++ [0xF0, 0x10, 0xF0, 0x10, 0xF0] ++
  [0x90, 0x90, 0xF0, 0x10, 0x10] ++ [0xF0, 0x80, 0xF0, 0x10, 0xF0] ++
  [0xF0, 0x80, 0xF0, 0x90, 0xF0] ++ [0xF0, 0x10, 0x20, 0x40, 0x40] ++
  [0xF0, 0x90, 0xF0, 0x90, 0xF0] ++ [0xF0, 0x90, 0xF0, 0x10, 0xF0] ++
  [0xF0, 0x90, 0xF0, 0x90, 0x90] ++ [0xE0, 0x90, 0xE0, 0x90, 0xE0] ++
  [0xF0, 0x80, 0x80, 0x80, 0xF0] ++ [0xE0, 0x90, 0x90, 0x90, 0xE0] ++
  [0xF0, 0x80, 0xF0, 0x80, 0xF0] ++ [0xF0, 0x80, 0xF0, 0x80, 0x80]

/-- What a memory address that no entry lists reads as: the reset contents under the default `FONT`
(20_memory.md R56): the font at 0x050..0x09F, zero elsewhere. -/
def resetByte (a : Nat) : Byte :=
  if fontBase ≤ a ∧ a < fontBase + fontSize then fontBytes.getD (a - fontBase) 0 else 0

end Sys2Proof.Config

namespace Sys2Proof.Machine

/-- The byte at an address of a memory: the listed one, else the reset contents (20_memory.md R51, R56). -/
def Memory.read : Memory → Nat → Byte
  | [], a => Config.resetByte a
  | (b, w) :: rest, a => if a = b then w else Memory.read rest a

/-- The list with one entry for `a` holding `v`, or none where `v` is what an unlisted address reads as. -/
def Memory.cons (a : Nat) (v : Byte) (rest : Memory) : Memory :=
  if v = Config.resetByte a then rest else (a, v) :: rest

/-- `mem[a] <- v` (20_memory.md R52), keeping the canonical form. -/
def Memory.write : Memory → Nat → Byte → Memory
  | [], a, v => Memory.cons a v []
  | (b, w) :: rest, a, v =>
    if a < b then Memory.cons a v ((b, w) :: rest)
    else if a = b then Memory.cons a v rest
    else (b, w) :: Memory.write rest a v

/-- The bytes of a list, written at rising addresses from `a` (RESET's font and LOAD_ROM's image). -/
def Memory.writeList : List Byte → Nat → Memory → Memory
  | [], _, m => m
  | b :: bs, a, m => Memory.writeList bs (a + 1) (Memory.write m a b)

/-- The canonical form: addresses strictly rising and inside the address space, and no entry equal to what an unlisted
address reads as. -/
abbrev Memory.wf (m : Memory) : Prop :=
  m.Pairwise (fun c d => c.1 < d.1) ∧ ∀ c ∈ m, c.1 < Config.memSize ∧ c.2 ≠ Config.resetByte c.1

/-- `MemRead(a, 1)` (R51). -/
def State.memRead (s : State) (a : Addr) : Byte := Memory.read s.mem a.toNat

/-- `MemWrite(a, 1, b)` (R52). -/
def State.memWrite (s : State) (a : Addr) (b : Byte) : State := { s with mem := Memory.write s.mem a.toNat b }

/-- Store the bytes `f 0`, …, `f (n-1)` at `EA(0)`, …, `EA(n-1)`, in ascending order (20_memory.md R54, R58). A store
leaves I alone, so every address is computed from the I the instruction began with. -/
def State.storeBytes (s : State) (f : Nat → Byte) : Nat → State
  | 0 => s
  | n + 1 => (s.storeBytes f n).memWrite (s.ea n) (f n)

/-- Load `V[0]`, …, `V[n-1]` from `EA(0)`, …, `EA(n-1)`, in ascending order (R54, R58). -/
def State.loadRegs (s : State) : Nat → State
  | 0 => s
  | n + 1 => (s.loadRegs n).setV (BitVec.ofNat 4 n) (s.memRead (s.ea n))

/-- `I <- (I + X + 1) mod 65536` under `load_store_increments_i`, else I unchanged (43_index_memory.md R154, R155). -/
def State.bumpIndex (s : State) (x : Nibble) : State :=
  if s.quirks.loadStoreIncrementsI then s.setI (s.i + BitVec.ofNat 16 (x.toNat + 1)) else s

/-- `PC <- (PC + 2) mod 4096`: the fetch's increment and a taken skip (40_step_cycle.md R96, 41_flow.md R113). -/
def State.advancePc (s : State) : State := s.setPc (s.pc + 2)

/-- The conditional skip (R113 to R116, R190, R191). -/
def State.skipIf (s : State) (b : Bool) : State := if b then s.advancePc else s

/-- TAKING A FAULT (60_exceptions.md R212, R213): nothing the step would have written is written, PC is the address
the instruction was fetched from, the three fault registers record the fault and the core is HALTED. Control goes
nowhere: there is no handler. There is no return from it beside RESET (R216; `State.resetWith`). -/
def State.takeFault (s : State) (cause : FaultCause) (pc0 : Addr) (op : Option Word) : State :=
  { s with pc := pc0, runState := .halted, faultCause := cause, faultPc := pc0, faultOp := op }

/-- A fault of the execute phase. PC holds PCn = PC0 + 2 there, so PC0 is PC - 2 (40_step_cycle.md R96); the word
fetched is the instruction's one encoding (DEDUCED from 30_encoding.md R80, log entry 5). -/
def State.takeExecFault (s : State) (cause : FaultCause) (i : Instr) : State :=
  s.takeFault cause (s.pc - 2) (some (encode i))

/-- `Fetch16(p)`: the big-endian word at p, with no wrap: there is none at p = 0xFFF (20_memory.md R53). -/
def State.fetch16 (s : State) (p : Addr) : Option Word :=
  if p = 0xFFF then none else some (wordOfBytes (s.memRead p) (s.memRead (p + 1)))

/-- What the fetch and decode phases of a STEP come to (40_step_cycle.md R95 to R97). -/
inductive Fetched where
  /-- The core is HALTED: the STEP does nothing (R94). -/
  | idle
  /-- The step faults in the fetch or the decode phase and this is the state it leaves. -/
  | trapped (t : State)
  /-- The instruction to execute, and the state with PC = PCn it executes in. -/
  | instr (i : Instr) (t : State)

/-- Fetch and decode (R95 to R97, 60_exceptions.md R211, R212). -/
def State.fetchDecode (s : State) : Fetched :=
  match s.runState with
  | .halted => .idle
  | .run =>
    match s.fetch16 s.pc with
    | none => .trapped (s.takeFault .fetchOutOfRange s.pc none)
    | some w =>
      match decodeWord w with
      | none => .trapped (s.takeFault .unimplementedOpcode s.pc (some w))
      | some i => .instr i s.advancePc

/-- Store an instruction word where the next fetch reads it: high byte at PC, low byte at PC + 1 (R53). At PC = 0xFFF
no instruction can be fetched (60_exceptions.md R211) and nothing is stored. -/
def State.placeWord (s : State) (w : Word) : State :=
  if s.pc = 0xFFF then s else (s.memWrite s.pc (hiByte w)).memWrite (s.pc + 1) (loByte w)

end Sys2Proof.Machine
end

