-- ==== Sys2Proof/Machine/Flow.lean ====
section
/-! DEFINITION. Control transfer (41_flow.md): 00EE, 1NNN, 2NNN, 3XNN, 4XNN, 5XY0, 9XY0, BNNN. In every meaning PC
already holds PCn, the address after the instruction (40_step_cycle.md R96). -/

namespace Sys2Proof.Machine

abbrev Result := Host.Outcome State Fault Refusal

/-- 00EE, return (R110): StackUnderflow at SP = 0, else SP <- SP - 1 and PC <- stack[SP]; the slot keeps its value. -/
def exec00EE (s : State) : Result :=
  if s.sp = 0 then .next (s.takeExecFault .stackUnderflow .op00EE)
  else if h : (s.sp - 1).toNat < 16 then .next { s with sp := s.sp - 1, pc := s.stack[(s.sp - 1).toNat] }
  else .fault .stackPointerOutOfRange

/-- 1NNN, jump (R111). -/
def exec1NNN (nnn : Addr) (s : State) : Result := .next (s.setPc nnn)

/-- 2NNN, call (R112): StackOverflow at SP = 16, else stack[SP] <- PC, SP <- SP + 1, PC <- NNN. -/
def exec2NNN (nnn : Addr) (s : State) : Result :=
  if s.sp = 16 then .next (s.takeExecFault .stackOverflow (.op2NNN nnn))
  else if h : s.sp.toNat < 16 then .next { s with stack := s.stack.set s.sp.toNat s.pc h, sp := s.sp + 1, pc := nnn }
  else .fault .stackPointerOutOfRange

/-- 3XNN, skip if VX = NN (R113). -/
def exec3XNN (x : Nibble) (nn : Byte) (s : State) : Result := .next (s.skipIf (s.getV x == nn))

/-- 4XNN, skip if VX differs from NN (R114). -/
def exec4XNN (x : Nibble) (nn : Byte) (s : State) : Result := .next (s.skipIf (s.getV x != nn))

/-- 5XY0, skip if VX = VY (R115). -/
def exec5XY0 (x y : Nibble) (s : State) : Result := .next (s.skipIf (s.getV x == s.getV y))

/-- 9XY0, skip if VX differs from VY (R116). -/
def exec9XY0 (x y : Nibble) (s : State) : Result := .next (s.skipIf (s.getV x != s.getV y))

/-- BNNN, jump with offset (R117): PC <- (NNN + V0 or V[NNN[11:8]]) mod 4096. -/
def execBNNN (nnn : Addr) (s : State) : Result := .next (s.setPc (nnn + (s.jumpOffset nnn).setWidth 12))

end Sys2Proof.Machine
end

