-- ==== Sys2Proof/Machine/Alu.lean ====
section
/-! DEFINITION. Register load, arithmetic, logic, shift and random (42_alu.md): 6XNN, 7XNN, 8XY0 to 8XY7, 8XYE, CXNN.
Operands are read from the state the meaning is given, before any write (00_scope.md R12). -/

namespace Sys2Proof.Machine

/-- 6XNN, VX <- NN (R130). -/
def exec6XNN (x : Nibble) (nn : Byte) (s : State) : Result := .next (s.setV x nn)

/-- 7XNN, VX <- (VX + NN) mod 256; VF is not touched (R131). -/
def exec7XNN (x : Nibble) (nn : Byte) (s : State) : Result := .next (s.setV x (s.getV x + nn))

/-- 8XY0, VX <- VY (R132). -/
def exec8XY0 (x y : Nibble) (s : State) : Result := .next (s.setV x (s.getV y))

/-- 8XY1, VX <- VX | VY; VF is not touched (R133). -/
def exec8XY1 (x y : Nibble) (s : State) : Result := .next (s.setV x (s.getV x ||| s.getV y))

/-- 8XY2, VX <- VX & VY; VF is not touched (R134). -/
def exec8XY2 (x y : Nibble) (s : State) : Result := .next (s.setV x (s.getV x &&& s.getV y))

/-- 8XY3, VX <- VX ^ VY; VF is not touched (R135). -/
def exec8XY3 (x y : Nibble) (s : State) : Result := .next (s.setV x (s.getV x ^^^ s.getV y))

/-- 8XY4, VX <- (VX + VY) mod 256, then VF <- carry (R136). -/
def exec8XY4 (x y : Nibble) (s : State) : Result :=
  .next (s.setResultAndFlag x (s.getV x + s.getV y) (carryOut (s.getV x) (s.getV y)))

/-- 8XY5, VX <- (VX - VY) mod 256, then VF <- 1 where VX is at least VY (R137). -/
def exec8XY5 (x y : Nibble) (s : State) : Result :=
  .next (s.setResultAndFlag x (s.getV x - s.getV y) (noBorrow (s.getV x) (s.getV y)))

/-- 8XY6, VX <- t >> 1, then VF <- bit 0 of t (R138). -/
def exec8XY6 (x y : Nibble) (s : State) : Result :=
  .next (s.setResultAndFlag x (s.shiftSource x y >>> 1) (rightShiftOut (s.shiftSource x y)))

/-- 8XY7, VX <- (VY - VX) mod 256, then VF <- 1 where VY is at least VX (R139). -/
def exec8XY7 (x y : Nibble) (s : State) : Result :=
  .next (s.setResultAndFlag x (s.getV y - s.getV x) (noBorrow (s.getV y) (s.getV x)))

/-- 8XYE, VX <- (t << 1) mod 256, then VF <- bit 7 of t (R140). -/
def exec8XYE (x y : Nibble) (s : State) : Result :=
  .next (s.setResultAndFlag x (s.shiftSource x y <<< 1) (leftShiftOut (s.shiftSource x y)))

/-- CXNN, VX <- rand & NN, one sample of the random input (R145). The input is the free value here, since `exec` has no
argument for it; `execWith` is the same with the byte as an argument (10_state.md R35, log entry 4). -/
def execCXNN (x : Nibble) (nn : Byte) (s : State) : Result := .next (s.takeRand.loadRandom s.randByte x nn)

end Sys2Proof.Machine
end

