-- ==== Sys2Proof/Machine/Display.lean ====
section
/-! DEFINITION. The framebuffer and the display instructions (44_display.md): 00E0, DXYN. -/

namespace Sys2Proof.Machine

/-- `fb[r][c]`; outside the 32 by 64 grid there is no cell, and this answers false. -/
def pixel (fb : Framebuffer) (r c : Nat) : Bool := if h : r < 32 ∧ c < 64 then (fb[r]'h.1)[c]'h.2 else false

/-- `fb[r][c] <- b`; nothing outside the grid. -/
def setPixel (fb : Framebuffer) (r c : Nat) (b : Bool) : Framebuffer :=
  if h : r < 32 ∧ c < 64 then fb.set r ((fb[r]'h.1).set c b h.2) h.1 else fb

/-- A draw in progress: the framebuffer and whether a lit pixel has been turned off (R171). -/
structure Canvas where
  fb : Framebuffer
  hit : Bool
  deriving DecidableEq, Repr

/-- One sprite bit at (y, x): a 1 toggles the cell and records a hit where the cell was lit; a 0 does nothing (R171). -/
def Canvas.plot (d : Canvas) (y x : Nat) (bit : Bool) : Canvas :=
  if bit then ⟨setPixel d.fb y x (!pixel d.fb y x), d.hit || pixel d.fb y x⟩ else d

/-- Sprite pixel `col` of a row byte, column 0 leftmost: bit 7 - col (R173). -/
def spriteBit (b : Byte) (col : Nat) : Bool := b.getLsbD (7 - col)

/-- The first n columns of one sprite row at (y, x0), left to right. Past column 63 nothing is drawn: R171 leaves its
column loop there, and every later column is past it too. -/
def Canvas.drawRow (d : Canvas) (b : Byte) (y x0 : Nat) : Nat → Canvas
  | 0 => d
  | n + 1 => if x0 + n > 63 then d.drawRow b y x0 n else (d.drawRow b y x0 n).plot y (x0 + n) (spriteBit b n)

/-- The first n rows of a sprite at (y0, x0), top to bottom; `rows k` is the k-th byte. Past row 31 nothing is drawn:
R171 leaves its row loop there, and every later row is past it too. -/
def Canvas.drawRows (d : Canvas) (rows : Nat → Byte) (y0 x0 : Nat) : Nat → Canvas
  | 0 => d
  | n + 1 =>
    if y0 + n > 31 then d.drawRows rows y0 x0 n else (d.drawRows rows y0 x0 n).drawRow (rows n) (y0 + n) x0 8

/-- The sprite's k-th byte: MemRead(EA(k), 1) (R171). -/
def State.spriteRow (s : State) (k : Nat) : Byte := s.memRead (s.ea k)

/-- The sprite of DXYN drawn on the framebuffer, from column VX mod 64 and row VY mod 32 (R171). -/
def State.drawSprite (s : State) (x y n : Nibble) : Canvas :=
  (Canvas.mk s.fb false).drawRows s.spriteRow ((s.getV y).toNat % 32) ((s.getV x).toNat % 64) n.toNat

/-- 00E0, every cell off (R170). -/
def exec00E0 (s : State) : Result := .next { s with fb := Vector.replicate 32 (Vector.replicate 64 false) }

/-- DXYN: with N = 0 nothing (R172); else the sprite is drawn by exclusive or with clipping and VF becomes the
collision flag (R171). The coordinates come from the registers as they were before VF is written (R171 (d)). -/
def execDXYN (x y n : Nibble) (s : State) : Result :=
  if n = 0 then .next s
  else .next ({ s with fb := (s.drawSprite x y n).fb }.setFlag (s.drawSprite x y n).hit)

end Sys2Proof.Machine
end

