-- ==== Sys2Proof/Machine/IndexMemory.lean ====
section
/-! DEFINITION. Index register and memory (43_index_memory.md): ANNN, FX1E, FX29, FX33, FX55, FX65. -/

namespace Sys2Proof.Machine

/-- ANNN, I <- NNN, the upper four bits zero (R150). -/
def execANNN (nnn : Addr) (s : State) : Result := .next (s.setI (nnn.setWidth 16))

/-- FX1E, I <- (I + VX) mod 65536; under `add_i_sets_vf` a sum above 0x0FFF sets VF to 1, and VF is never cleared
(R151, D13). -/
def execFX1E (x : Nibble) (s : State) : Result :=
  let t := s.setI (s.i + (s.getV x).setWidth 16)
  .next (if s.quirks.addISetsVf && indexOverflow s.i (s.getV x) then t.setFlag true else t)

/-- FX29, I <- 0x050 + (VX & 0xF) * 5 (R152). -/
def execFX29 (x : Nibble) (s : State) : Result := .next (s.setI (glyphAddress (s.getV x)))

/-- FX33, the three decimal digits of VX at EA(0), EA(1), EA(2) (R153). -/
def execFX33 (x : Nibble) (s : State) : Result := .next (s.storeBytes (bcdDigit (s.getV x)) 3)

/-- FX55, V0 to VX at EA(0) to EA(X); then I moves past them under its quirk (R154). -/
def execFX55 (x : Nibble) (s : State) : Result :=
  .next ((s.storeBytes (fun k => s.getV (BitVec.ofNat 4 k)) (x.toNat + 1)).bumpIndex x)

/-- FX65, V0 to VX from EA(0) to EA(X); then I moves past them under its quirk (R155). -/
def execFX65 (x : Nibble) (s : State) : Result := .next ((s.loadRegs (x.toNat + 1)).bumpIndex x)

end Sys2Proof.Machine
end

