-- ==== Sys2Proof/Machine/KeypadTimers.lean ====
section
/-! DEFINITION. Keypad and timers (45_keypad_timers.md): EX9E, EXA1, FX07, FX0A, FX15, FX18. -/

namespace Sys2Proof.Machine

/-- EX9E, skip if the key VX names is pressed (R190). -/
def execEX9E (x : Nibble) (s : State) : Result := .next (s.skipIf (keyDown s.key (keyIndex (s.getV x))))

/-- EXA1, skip if the key VX names is not pressed (R191). -/
def execEXA1 (x : Nibble) (s : State) : Result := .next (s.skipIf (!keyDown s.key (keyIndex (s.getV x))))

/-- FX07, VX <- DT (R192). -/
def execFX07 (x : Nibble) (s : State) : Result := .next (s.setV x s.dt)

/-- FX0A, wait for a key (R193): with no key pressed PC goes back to this instruction and nothing else changes; else
VX receives the index KEY_SELECT reports. The key is not consumed. -/
def execFX0A (x : Nibble) (s : State) : Result :=
  match selectKey s.keySelect s.key with
  | none => .next (s.setPc (s.pc - 2))
  | some k => .next (s.setV x (k.setWidth 8))

/-- FX15, DT <- VX (R194). -/
def execFX15 (x : Nibble) (s : State) : Result := .next (s.setDt (s.getV x))

/-- FX18, ST <- VX (R195). -/
def execFX18 (x : Nibble) (s : State) : Result := .next (s.setSt (s.getV x))

end Sys2Proof.Machine
end

