-- ==== Sys2Proof/Machine/Step.lean ====
section
/-! DEFINITION. STEP (40_step_cycle.md R95): one fetch, decode and execute. -/

namespace Sys2Proof.Machine

/-- STEP (R95): nothing while HALTED (R94); a fault of the fetch or decode phase leaves the state with that fault taken;
else the decoded instruction is executed with PC = PCn. -/
def step (s : State) : Host.Outcome State Fault Refusal :=
  match s.fetchDecode with
  | .idle => .next s
  | .trapped t => .next t
  | .instr i t => exec i t

/-- The state with an instruction placed where the next STEP fetches: the word whose bits, numbered as
spec/opcode_table.json numbers them, are the low `nbits` bits of `w`. It stands for LOAD_ROM (log entry 7). -/
def State.withFetchWord (s : State) (nbits w : Nat) : State := s.placeWord (BitVec.ofNat 16 (w % 2 ^ nbits))

end Sys2Proof.Machine
end

