-- ==== Sys2Proof/Machine/Environment.lean ====
section
/-! DEFINITION. The operations other agents issue and the outputs (40_step_cycle.md R91): RESET, LOAD_ROM, TICK,
KEY_PRESS, KEY_RELEASE, STEP with the random input as an argument; `display`, `sound_active`, `fault`; and any sequence
of operations (R90). -/

namespace Sys2Proof.Machine

/-- The construction parameters RESET latches (00_scope.md R6, 70_reset_and_hazards.md R240). -/
structure Params where
  quirks : Quirks
  /-- `FONT`, 80 bytes. -/
  font : List Byte
  keySelect : KeySelect
  deriving DecidableEq, Repr

/-- The reference configuration (00_scope.md R6). -/
def Params.reference : Params := ⟨Config.quirks, Config.fontBytes, Config.keySelect⟩

/-- RESET (70_reset_and_hazards.md R240), accepted in RUN and in HALTED. The model's count of free values goes on, since
the random source is outside the core (00_scope.md R7; log entry 4). -/
def State.resetWith (p : Params) (s : State) : State :=
  { State.reset with
    mem := Memory.writeList p.font Config.fontBase [], quirks := p.quirks, keySelect := p.keySelect, samples := s.samples }

/-- An operation other than RESET has no effect while HALTED (40_step_cycle.md R94, 60_exceptions.md R213). -/
def State.whenRun (s : State) (t : State) : State :=
  match s.runState with
  | .run => t
  | .halted => s

/-- LOAD_ROM (40_step_cycle.md R104): the bytes at 0x200 upward; an image longer than 3584 bytes is refused whole and
nothing is written. R104 defines and admits it once, between RESET and the first STEP. DESIGN CHOICE (log entry 9): at any
other moment in RUN it does the same. A SECOND LOAD_ROM between RESET and the first STEP writes its image over the first,
and the bytes of a longer first image past its end stay; a LOAD_ROM after a STEP writes its image over memory as it is. -/
def State.loadRom (s : State) (rom : List Byte) : State :=
  s.whenRun (if rom.length ≤ Config.romMax then { s with mem := Memory.writeList rom Config.romBase s.mem } else s)

/-- Does LOAD_ROM report a host error? (R104, 60_exceptions.md R219) -/
def romRejected (rom : List Byte) : Bool := Config.romMax < rom.length

/-- A timer decremented while above zero, stopping at zero (40_step_cycle.md R99). -/
def tickTimer (b : Byte) : Byte := if b.toNat > 0 then b - 1 else b

/-- TICK (R99): each timer on its own. -/
def State.tick (s : State) : State := s.whenRun { s with dt := tickTimer s.dt, st := tickTimer s.st }

/-- `key[k] <- b`. -/
def State.setKey (s : State) (k : Nibble) (b : Bool) : State := { s with key := s.key.set k.toNat b k.isLt }

/-- KEY_PRESS(k) (R100). -/
def State.keyPress (s : State) (k : Nibble) : State := s.whenRun (s.setKey k true)

/-- KEY_RELEASE(k) (R100). -/
def State.keyRelease (s : State) (k : Nibble) : State := s.whenRun (s.setKey k false)

/-- The execute phase with the byte on the random input an argument (10_state.md R35, 40_step_cycle.md R105): CXNN takes
it, and no other instruction reads it. -/
def execWith (rand : Byte) (i : Instr) (s : State) : Result :=
  match i with
  | .opCXNN x nn => .next (s.loadRandom rand x nn)
  | _ => exec i s

/-- STEP (R95) with the byte on the random input an argument: the STEP of a sequence of operations. -/
def stepWith (rand : Byte) (s : State) : Result :=
  match s.fetchDecode with
  | .idle => .next s
  | .trapped t => .next t
  | .instr i t => execWith rand i t

/-- The output `display`: the function (row, column) to bit (R101). -/
def State.display (s : State) (r : BitVec 5) (c : BitVec 6) : Bool := (s.fb[r.toNat]'r.isLt)[c.toNat]'c.isLt

/-- The output `sound_active`: ST > 0 (R102). -/
def State.soundActive (s : State) : Bool := s.st.toNat > 0

/-- The numeric code of a cause, three bits (60_exceptions.md R210). -/
def FaultCause.code : FaultCause → BitVec 3
  | .none => 0
  | .unimplementedOpcode => 1
  | .stackOverflow => 2
  | .stackUnderflow => 3
  | .fetchOutOfRange => 4

/-- The output `fault` (40_step_cycle.md R103). -/
structure FaultView where
  halted : Bool
  cause : BitVec 3
  pc : Addr
  op : Option Word
  deriving DecidableEq, Repr

/-- The output `fault` exposes the four fault registers (R103). -/
def State.faultView (s : State) : FaultView :=
  ⟨s.runState = .halted, s.faultCause.code, s.faultPc, s.faultOp⟩

/-- The operations of R91 that change state. -/
inductive Op where
  | reset (p : Params)
  | loadRom (rom : List Byte)
  /-- STEP, and the byte the random input shows during it (R105). -/
  | step (rand : Byte)
  | tick
  | keyPress (k : Nibble)
  | keyRelease (k : Nibble)
  deriving DecidableEq, Repr

/-- One operation, indivisible (R90). -/
def applyOp (op : Op) (s : State) : Result :=
  match op with
  | .reset p => .next (s.resetWith p)
  | .loadRom rom => .next (s.loadRom rom)
  | .step rand => stepWith rand s
  | .tick => .next s.tick
  | .keyPress k => .next (s.keyPress k)
  | .keyRelease k => .next (s.keyRelease k)

/-- A sequence of operations in the order the environment issues them (R90), stopping where one has no next state. -/
def runOps : List Op → State → Result
  | [], s => .next s
  | op :: ops, s =>
    match applyOp op s with
    | .next t => runOps ops t
    | .fault r => .fault r
    | .refused r => .refused r

end Sys2Proof.Machine
end

