-- ==== Sys2Proof/WellFormed.lean ====
section
/-! DEFINITION. Which terms a user of the model may hand it. An instruction's operands have the exact width of their
field, so every `Instr` is well formed by its type; what a type cannot rule out is checked here: a ROM image's length
(40_step_cycle.md R104), a FONT's length (00_scope.md R6) and a KEY_SELECT table's entries (00_scope.md R6). -/

namespace Sys2Proof

/-- Every instruction is well formed: X, Y, N are 4 bits, NN is 8, NNN is 12 (30_encoding.md R71, R73), and every value
of every field is legal (R80). -/
def Instr.wellFormed : Instr → Bool
  | .op00E0 | .op00EE => true
  | .op1NNN nnn | .op2NNN nnn | .opANNN nnn | .opBNNN nnn => nnn.toNat ≤ 0xFFF
  | .op3XNN x nn | .op4XNN x nn | .op6XNN x nn | .op7XNN x nn | .opCXNN x nn => x.toNat ≤ 0xF && nn.toNat ≤ 0xFF
  | .op5XY0 x y | .op8XY0 x y | .op8XY1 x y | .op8XY2 x y | .op8XY3 x y | .op8XY4 x y | .op8XY5 x y
  | .op8XY6 x y | .op8XY7 x y | .op8XYE x y | .op9XY0 x y => x.toNat ≤ 0xF && y.toNat ≤ 0xF
  | .opDXYN x y n => x.toNat ≤ 0xF && y.toNat ≤ 0xF && n.toNat ≤ 0xF
  | .opEX9E x | .opEXA1 x | .opFX07 x | .opFX0A x | .opFX15 x | .opFX18 x | .opFX1E x | .opFX29 x
  | .opFX33 x | .opFX55 x | .opFX65 x => x.toNat ≤ 0xF

/-- A ROM image fits: at most 3584 bytes (R104). The empty image is accepted. -/
def romFits (rom : List Byte) : Bool := rom.length ≤ Config.romMax

/-- A FONT has exactly 80 bytes (R6). -/
def fontFits (font : List Byte) : Bool := font.length == Config.fontSize

/-- A KEY_SELECT table is well formed when every entry reports a member of its set ("function from a non-empty set of
key indices to one member", R6). -/
def KeySelect.wellFormed (t : KeySelect) : Bool := t.all fun e => e.1[e.2.toNat]'e.2.isLt

end Sys2Proof
end

