-- ==== Sys2Proof/Safety.lean ====
section
/-! DEFINITION. The terms claims are stated in: what a safe run is, the invariant every operation keeps, and the
locations of the state with the access matrix of 10_state.md R36. -/

namespace Sys2Proof.Machine

/-- No fault is recorded. HALTED is a bad terminal state, and this is a premise of every claim about a program
(60_exceptions.md R213). -/
def State.Safe (s : State) : Prop := s.runState = .run

/-- A sequence of operations runs safely from `s` when it ends in a safe state. -/
def SafeRun (ops : List Op) (s : State) : Prop := ∃ t, runOps ops s = .next t ∧ t.Safe

/-- The fault record says what 60_exceptions.md R211 and R212 say: without a fault it is as RESET left it; with one,
PC is the faulting address, FAULT_OP is the word that lies there, and the condition of the cause holds. -/
def State.FaultRecord (s : State) : Prop :=
  match s.faultCause with
  | .none => s.faultPc = 0 ∧ s.faultOp = none
  | .unimplementedOpcode =>
    s.faultPc = s.pc ∧ s.faultOp = s.fetch16 s.pc ∧ ∃ w, s.faultOp = some w ∧ decodeWord w = none
  | .stackOverflow =>
    s.faultPc = s.pc ∧ s.faultOp = s.fetch16 s.pc ∧ s.sp = 16 ∧ ∃ nnn, s.faultOp = some (encode (.op2NNN nnn))
  | .stackUnderflow =>
    s.faultPc = s.pc ∧ s.faultOp = s.fetch16 s.pc ∧ s.sp = 0 ∧ s.faultOp = some (encode .op00EE)
  | .fetchOutOfRange => s.faultPc = s.pc ∧ s.pc = 0xFFF ∧ s.faultOp = none

/-- The invariant of the machine: memory in canonical form, SP in 0..16 (10_state.md R34), FAULT_CAUSE set exactly when
HALTED (R32), and the fault record. The other bounds of R34 are the fields' widths. -/
structure State.Inv (s : State) : Prop where
  memWf : Memory.wf s.mem
  spBound : s.sp.toNat ≤ 16
  faultIffHalted : s.faultCause ≠ .none ↔ s.runState = .halted
  faultRecord : s.FaultRecord

/-- A location of the state of 10_state.md R20, plus the model's own count of free values. -/
inductive Loc where
  | v (r : Nibble)
  | byte (a : Addr)
  | pc
  | i
  | stackAt (j : Nibble)
  | sp
  | dt
  | st
  | cell (r : BitVec 5) (c : BitVec 6)
  | key (k : Nibble)
  | quirks
  | keySelect
  | runState
  | faultCause
  | faultPc
  | faultOp
  | samples
  deriving DecidableEq, Repr

/-- Two states hold the same at a location; memory through the read of one byte. -/
def State.sameAt (s t : State) : Loc → Prop
  | .v r => t.getV r = s.getV r
  | .byte a => t.memRead a = s.memRead a
  | .pc => t.pc = s.pc
  | .i => t.i = s.i
  | .stackAt j => t.stack[j.toNat]'j.isLt = s.stack[j.toNat]'j.isLt
  | .sp => t.sp = s.sp
  | .dt => t.dt = s.dt
  | .st => t.st = s.st
  | .cell r c => t.display r c = s.display r c
  | .key k => keyDown t.key k = keyDown s.key k
  | .quirks => t.quirks = s.quirks
  | .keySelect => t.keySelect = s.keySelect
  | .runState => t.runState = s.runState
  | .faultCause => t.faultCause = s.faultCause
  | .faultPc => t.faultPc = s.faultPc
  | .faultOp => t.faultOp = s.faultOp
  | .samples => t.samples = s.samples

/-- The frame: from `s` to `t` nothing changes but the locations `w` admits (00_scope.md R13). -/
def State.onlyChanges (s t : State) (w : Loc → Prop) : Prop := ∀ l, ¬ w l → s.sameAt t l

/-- A framebuffer cell. -/
def Loc.isCell : Loc → Prop
  | .cell _ _ => True
  | _ => False

/-- A keypad entry. -/
def Loc.isKey : Loc → Prop
  | .key _ => True
  | _ => False

/-- One of the first n bytes of a data access: EA(0), …, EA(n-1) (20_memory.md R54). -/
def State.isDataByte (s : State) (n : Nat) (l : Loc) : Prop := ∃ k, k < n ∧ l = .byte (s.ea k)

/-- One of V[0], …, V[n-1]. -/
def Loc.isLowReg (n : Nat) : Loc → Prop
  | .v r => r.toNat < n
  | _ => False

end Sys2Proof.Machine

namespace Sys2Proof
open Machine

/-- What an instruction that does not fault may write, from the `w` entries of 10_state.md R36; PC, which the matrix
leaves out, is R24's. The stack slots are numbered by SP's low four bits, since SP is below 16 where 2NNN writes one.
`samples`, the model's own count, is what `exec` has in place of CXNN's random input (log entry 4). -/
def Instr.mayWrite (i : Instr) (s : State) (l : Loc) : Prop :=
  match i with
  | .op00E0 => l.isCell
  | .op00EE => l = .sp ∨ l = .pc
  | .op1NNN _ | .opBNNN _ => l = .pc
  | .op2NNN _ => l = .stackAt (s.sp.setWidth 4) ∨ l = .sp ∨ l = .pc
  | .op3XNN _ _ | .op4XNN _ _ | .op5XY0 _ _ | .op9XY0 _ _ | .opEX9E _ | .opEXA1 _ => l = .pc
  | .op6XNN x _ | .op7XNN x _ | .op8XY0 x _ | .op8XY1 x _ | .op8XY2 x _ | .op8XY3 x _ | .opFX07 x => l = .v x
  | .op8XY4 x _ | .op8XY5 x _ | .op8XY6 x _ | .op8XY7 x _ | .op8XYE x _ => l = .v x ∨ l = .v vf
  | .opANNN _ | .opFX29 _ => l = .i
  | .opCXNN x _ => l = .v x ∨ l = .samples
  | .opDXYN _ _ n => n ≠ 0 ∧ (l.isCell ∨ l = .v vf)
  | .opFX0A x => l = .v x ∨ l = .pc
  | .opFX15 _ => l = .dt
  | .opFX18 _ => l = .st
  | .opFX1E _ => l = .i ∨ (s.quirks.addISetsVf = true ∧ l = .v vf)
  | .opFX33 _ => s.isDataByte 3 l
  | .opFX55 x => s.isDataByte (x.toNat + 1) l ∨ (s.quirks.loadStoreIncrementsI = true ∧ l = .i)
  | .opFX65 x => l.isLowReg (x.toNat + 1) ∨ (s.quirks.loadStoreIncrementsI = true ∧ l = .i)

/-- What an instruction may read beyond its own two bytes and PC, from the `r` entries of 10_state.md R36. SP is read
where a stack entry is named by it; the data addresses read I. Where R36 gives CXNN the input `rand`, this gives it
`samples`: in `exec` the byte is a free value of that count. DESIGN CHOICE (log entry 4), no rule of the spec; unsafe where two runs
with equal counts are compared. -/
def Instr.mayRead (i : Instr) (s : State) (l : Loc) : Prop :=
  match i with
  | .op00E0 | .op1NNN _ | .op6XNN _ _ | .opANNN _ => False
  | .op00EE => l = .sp ∨ l = .stackAt ((s.sp - 1).setWidth 4)
  | .op2NNN _ => l = .sp
  | .op3XNN x _ | .op4XNN x _ | .op7XNN x _ | .opFX15 x | .opFX18 x | .opFX29 x => l = .v x
  | .op8XY0 _ y => l = .v y
  | .op5XY0 x y | .op9XY0 x y | .op8XY1 x y | .op8XY2 x y | .op8XY3 x y | .op8XY4 x y | .op8XY5 x y
  | .op8XY7 x y => l = .v x ∨ l = .v y
  | .op8XY6 x y | .op8XYE x y => l = .quirks ∨ l = .v (if s.quirks.shiftUsesVy then y else x)
  | .opBNNN nnn => l = .quirks ∨ l = .v (if s.quirks.jumpOffsetUsesVx then jumpRegister nnn else 0)
  | .opCXNN _ _ => l = .samples
  | .opDXYN x y n => l = .v x ∨ l = .v y ∨ l = .i ∨ s.isDataByte n.toNat l ∨ l.isCell
  | .opEX9E x | .opEXA1 x => l = .v x ∨ l.isKey
  | .opFX07 _ => l = .dt
  | .opFX0A _ => l.isKey ∨ l = .keySelect
  | .opFX1E x => l = .v x ∨ l = .i ∨ l = .quirks
  | .opFX33 x => l = .v x ∨ l = .i
  | .opFX55 x => l.isLowReg (x.toNat + 1) ∨ l = .i ∨ l = .quirks
  | .opFX65 x => s.isDataByte (x.toNat + 1) l ∨ l = .i ∨ l = .quirks

/-- Where PC stands after an instruction that does not fault, in terms of the fetch address PC0: the table of
10_state.md R24. `s` is the state before the STEP. -/
def Instr.pcAfter (i : Instr) (s : State) : Addr :=
  let skip (b : Bool) : Addr := if b then s.pc + 2 + 2 else s.pc + 2
  match i with
  | .op00EE => if h : (s.sp - 1).toNat < 16 then s.stack[(s.sp - 1).toNat] else s.pc + 2
  | .op1NNN nnn | .op2NNN nnn => nnn
  | .op3XNN x nn => skip (s.getV x == nn)
  | .op4XNN x nn => skip (s.getV x != nn)
  | .op5XY0 x y => skip (s.getV x == s.getV y)
  | .op9XY0 x y => skip (s.getV x != s.getV y)
  | .opEX9E x => skip (keyDown s.key (keyIndex (s.getV x)))
  | .opEXA1 x => skip (!keyDown s.key (keyIndex (s.getV x)))
  | .opBNNN nnn => BitVec.ofNat 12 (nnn.toNat +
      (if s.quirks.jumpOffsetUsesVx then s.getV (jumpRegister nnn) else s.getV 0).toNat)
  | .opFX0A _ => if (lowestKey s.key).isSome then s.pc + 2 else s.pc
  | .op00E0 | .op6XNN _ _ | .op7XNN _ _ | .op8XY0 _ _ | .op8XY1 _ _ | .op8XY2 _ _ | .op8XY3 _ _ | .op8XY4 _ _
  | .op8XY5 _ _ | .op8XY6 _ _ | .op8XY7 _ _ | .op8XYE _ _ | .opANNN _ | .opCXNN _ _ | .opDXYN _ _ _ | .opFX07 _
  | .opFX15 _ | .opFX18 _ | .opFX1E _ | .opFX29 _ | .opFX33 _ | .opFX55 _ | .opFX65 _ => s.pc + 2

end Sys2Proof

namespace Sys2Proof.Machine

/-- The drawn part of a sprite placed on the screen, the set S of 44_display.md R173: sprite pixel (r - y0, c - x0) at
cell (r, c), for cells of the screen. -/
def State.spriteAt (s : State) (x y n : Nibble) (r c : Nat) : Bool :=
  let x0 := (s.getV x).toNat % 64
  let y0 := (s.getV y).toNat % 32
  decide (r < 32 ∧ c < 64 ∧ y0 ≤ r ∧ r < y0 + n.toNat ∧ x0 ≤ c ∧ c < x0 + 8) &&
    (s.memRead (s.ea (r - y0))).getLsbD (7 - (c - x0))

/-- States that differ at most in stack entries at index SP and above: the unobservable ones (10_state.md R27, D23). -/
def State.SameLiveStack (s t : State) : Prop :=
  ({ s with stack := t.stack } : State) = t ∧
    ∀ j : Nibble, j.toNat < s.sp.toNat → t.stack[j.toNat]'j.isLt = s.stack[j.toNat]'j.isLt

/-- The encoding line of an instruction's rule, format FIXED (30_encoding.md R72, R74): the whole word. -/
def EncodedFixed (bits : Word) (i : Instr) : Prop := decodeWord bits = some i
/-- Format NNN: the words `w` with `w & 0xF000 = bits`. -/
def EncodedNNN (bits : Word) (mk : Addr → Instr) : Prop :=
  ∀ w, w &&& 0xF000 = bits → decodeWord w = some (mk (fieldNNN w))
/-- Format XNN. -/
def EncodedXNN (bits : Word) (mk : Nibble → Byte → Instr) : Prop :=
  ∀ w, w &&& 0xF000 = bits → decodeWord w = some (mk (fieldX w) (fieldNN w))
/-- Format XY. -/
def EncodedXY (bits : Word) (mk : Nibble → Nibble → Instr) : Prop :=
  ∀ w, w &&& 0xF00F = bits → decodeWord w = some (mk (fieldX w) (fieldY w))
/-- Format XYN. -/
def EncodedXYN (bits : Word) (mk : Nibble → Nibble → Nibble → Instr) : Prop :=
  ∀ w, w &&& 0xF000 = bits → decodeWord w = some (mk (fieldX w) (fieldY w) (fieldN w))
/-- Format X. -/
def EncodedX (bits : Word) (mk : Nibble → Instr) : Prop :=
  ∀ w, w &&& 0xF0FF = bits → decodeWord w = some (mk (fieldX w))

end Sys2Proof.Machine
end

