-- ==== Sys2Proof/Certificates/Slice0/Obligations.lean ====
section
/-! DEFINITION. The statements for the provers. Each docstring names the rule of spec/ it formalises. In every statement
about `exec` the state has PC = PCn, the address after the instruction (40_step_cycle.md R96). -/

open Sys2Proof Sys2Proof.Machine

/-- For every instruction, with every operand value its fields admit, the decoder reads the instruction back from its
word, and from its two bytes at the head of any list of bytes, leaving the rest. (derived; R71, R74, R76) -/
def Obligations.DecodeOfEncodeIsTheInstruction : Prop :=
  ∀ i : Instr, decodeWord (encode i) = some i ∧
    ∀ rest : List Byte, decodeBytes (encodeBytes i ++ rest) = .ok (i, rest)

/-- If a word decodes to an instruction, encoding that instruction gives the word back. (derived; R74, R80) -/
def Obligations.EncodeOfDecodeIsTheWord : Prop :=
  ∀ (w : Word) (i : Instr), decodeWord w = some i → encode i = w

/-- For every row of the opcode table and every word: the word decodes to an instruction of that row exactly when word
and mask = match. No word matches two rows. A word decodes to nothing exactly when it matches no row. (stated; R74) -/
def Obligations.DecodeAgreesWithMaskAndMatch : Prop :=
  (∀ row ∈ opcodeRows, ∀ w : Word,
      (∃ i, decodeWord w = some i ∧ i.pattern = row.pattern) ↔ w &&& row.mask = row.bits) ∧
    opcodeRows.Pairwise (fun a b => ∀ w : Word, ¬ (w &&& a.mask = a.bits ∧ w &&& b.mask = b.bits)) ∧
    ∀ w : Word, decodeWord w = none ↔ ∀ row ∈ opcodeRows, w &&& row.mask ≠ row.bits

/-- A word decodes to nothing exactly when it lies in the illegal space of R78: C = 0 and not 00E0 or 00EE; C = 5 or 9
with N not 0; C = 8 with N in 8, 9, A, B, C, D, F; C = E with NN not 9E or A1; C = F with NN none of the nine.
(derived; R75, R78) -/
def Obligations.IllegalWordsByCategory : Prop :=
  ∀ w : Word, decodeWord w = none ↔
    (fieldC w = 0x0 ∧ w ≠ 0x00E0 ∧ w ≠ 0x00EE) ∨ (fieldC w = 0x5 ∧ fieldN w ≠ 0) ∨
    (fieldC w = 0x8 ∧ fieldN w ∈ ([0x8, 0x9, 0xA, 0xB, 0xC, 0xD, 0xF] : List Nibble)) ∨
    (fieldC w = 0x9 ∧ fieldN w ≠ 0) ∨ (fieldC w = 0xE ∧ fieldNN w ∉ ([0x9E, 0xA1] : List Byte)) ∨
    (fieldC w = 0xF ∧ fieldNN w ∉ ([0x07, 0x0A, 0x15, 0x18, 0x1E, 0x29, 0x33, 0x55, 0x65] : List Byte))

/-- C, X, Y, N, NN and NNN of a word are its bits 15..12, 11..8, 7..4, 3..0, 7..0 and 11..0, NN = (Y << 4) | N and NNN
= (X << 8) | NN; and for a word made of bytes b0, b1 they are b0[7:4], b0[3:0], b1[7:4], b1[3:0], b1 and (b0[3:0]
<< 8) | b1. (stated; R71) -/
def Obligations.FieldsOfAWord : Prop :=
  (∀ w : Word, (fieldC w).toNat = w.toNat / 4096 ∧ (fieldX w).toNat = w.toNat / 256 % 16 ∧
      (fieldY w).toNat = w.toNat / 16 % 16 ∧ (fieldN w).toNat = w.toNat % 16 ∧
      (fieldNN w).toNat = w.toNat % 256 ∧ (fieldNNN w).toNat = w.toNat % 4096 ∧
      (fieldNN w).toNat = (fieldY w).toNat * 16 + (fieldN w).toNat ∧
      (fieldNNN w).toNat = (fieldX w).toNat * 256 + (fieldNN w).toNat) ∧
    ∀ b0 b1 : Byte, (fieldC (wordOfBytes b0 b1)).toNat = b0.toNat / 16 ∧
      (fieldX (wordOfBytes b0 b1)).toNat = b0.toNat % 16 ∧ (fieldY (wordOfBytes b0 b1)).toNat = b1.toNat / 16 ∧
      (fieldN (wordOfBytes b0 b1)).toNat = b1.toNat % 16 ∧ fieldNN (wordOfBytes b0 b1) = b1 ∧
      (fieldNNN (wordOfBytes b0 b1)).toNat = b0.toNat % 16 * 256 + b1.toNat

/-- Nine words, at least one from each family, decode to their instructions; the byte-swapped image of an ANNN and the
word of cleared memory decode to nothing. (derived; 95_test_vectors.md section 2.1, R76) -/
def Obligations.SampleWordsDecode : Prop :=
  decodeWord 0x00E0 = some .op00E0 ∧ decodeWord 0x00EE = some .op00EE ∧ decodeWord 0x2ABC = some (.op2NNN 0xABC) ∧
    decodeWord 0x332A = some (.op3XNN 3 0x2A) ∧ decodeWord 0x8AB4 = some (.op8XY4 0xA 0xB) ∧
    decodeWord 0xD123 = some (.opDXYN 1 2 3) ∧ decodeWord 0xE19E = some (.opEX9E 1) ∧
    decodeWord 0xF165 = some (.opFX65 1) ∧ decodeWord 0xA2F0 = some (.opANNN 0x2F0) ∧
    decodeWord 0xF0A2 = none ∧ decodeWord 0x0000 = none

/-- In RUN, with PC not 0xFFF, when the bytes at PC and PC + 1 decode to an instruction, STEP is exec of it at the same
state with PC = (PC + 2) mod 4096. (derived; R95, R96, R97, R98) -/
def Obligations.StepRunsTheDecodedInstruction : Prop :=
  ∀ (s : State) (i : Instr), s.runState = .run → s.pc ≠ 0xFFF →
    decodeWord (wordOfBytes (s.memRead s.pc) (s.memRead (s.pc + 1))) = some i →
    step s = exec i { s with pc := s.pc + 2 }

/-- In RUN, with PC not 0xFFF and memory in canonical form, after placing a word that decodes to i, STEP is exec of i
at that state with PC two further, and no byte but the two at PC and PC + 1 has changed. (derived; R53, R96,
notes/assumptions/7.md) -/
def Obligations.PlacedWordIsTheNextInstruction : Prop :=
  ∀ (s : State) (w : Nat) (i : Instr), Memory.wf s.mem → s.runState = .run → s.pc ≠ 0xFFF →
    decodeTableWord 16 w = some i →
    step (s.withFetchWord 16 w) = exec i { s.withFetchWord 16 w with pc := s.pc + 2 } ∧
    s.onlyChanges (s.withFetchWord 16 w) (fun l => l = .byte s.pc ∨ l = .byte (s.pc + 1))

/-- Fetch16(p) is (mem[p] << 8) | mem[p+1] for every p but 0xFFF, where there is no word and a STEP takes
FetchOutOfRange. (stated; R53) -/
def Obligations.FetchIsBigEndianAndFaultsAtTheTop : Prop :=
  ∀ s : State,
    (∀ p : Addr, p ≠ 0xFFF → ∃ w, s.fetch16 p = some w ∧
      w.toNat = (s.memRead p).toNat * 256 + (s.memRead (p + 1)).toNat) ∧
    s.fetch16 0xFFF = none ∧
    (s.runState = .run → s.pc = 0xFFF → step s = .next { s with
      runState := .halted, faultCause := .fetchOutOfRange, faultPc := 0xFFF, faultOp := none })

/-- In RUN: an illegal word, a 2NNN with SP = 16, a 00EE with SP = 0 and PC = 0xFFF each leave the state as it was but
for RUNSTATE = HALTED, FAULT_CAUSE, FAULT_PC = PC0 and FAULT_OP = the fetched word (not valid for FetchOutOfRange),
with codes 1, 2, 3, 4. (stated; R212) -/
def Obligations.FaultsRecordTheirDiagnostic : Prop :=
  ∀ s : State, s.runState = .run →
    (∀ w, s.fetch16 s.pc = some w → decodeWord w = none → step s = .next { s with
      runState := .halted, faultCause := .unimplementedOpcode, faultPc := s.pc, faultOp := some w }) ∧
    (∀ w, s.fetch16 s.pc = some w → w &&& 0xF000 = 0x2000 → s.sp = 16 → step s = .next { s with
      runState := .halted, faultCause := .stackOverflow, faultPc := s.pc, faultOp := some w }) ∧
    (s.fetch16 s.pc = some 0x00EE → s.sp = 0 → step s = .next { s with
      runState := .halted, faultCause := .stackUnderflow, faultPc := s.pc, faultOp := some 0x00EE }) ∧
    (s.pc = 0xFFF → step s = .next { s with
      runState := .halted, faultCause := .fetchOutOfRange, faultPc := 0xFFF, faultOp := none }) ∧
    FaultCause.unimplementedOpcode.code = 1 ∧ FaultCause.stackOverflow.code = 2 ∧
    FaultCause.stackUnderflow.code = 3 ∧ FaultCause.fetchOutOfRange.code = 4

/-- From a state in RUN with no fault recorded, a STEP that answers a next state records FetchOutOfRange exactly when
PC = 0xFFF, UnimplementedOpcode exactly when the fetched word is illegal, StackOverflow exactly when it is a 2NNN
and SP = 16, StackUnderflow exactly when it is 00EE and SP = 0, and otherwise stays in RUN with no fault recorded.
(stated; R211) -/
def Obligations.EachFaultExactlyOnItsCondition : Prop :=
  ∀ s t : State, s.runState = .run → s.faultCause = .none → step s = .next t →
    (t.faultCause = .fetchOutOfRange ↔ s.pc = 0xFFF) ∧
    (t.faultCause = .unimplementedOpcode ↔ ∃ w, s.fetch16 s.pc = some w ∧ decodeWord w = none) ∧
    (t.faultCause = .stackOverflow ↔ ∃ w, s.fetch16 s.pc = some w ∧ w &&& 0xF000 = 0x2000 ∧ s.sp = 16) ∧
    (t.faultCause = .stackUnderflow ↔ s.fetch16 s.pc = some 0x00EE ∧ s.sp = 0) ∧
    (t.faultCause = .none ↔ t.runState = .run)

/-- For every instruction and every state in RUN: if a STEP ends in HALTED, the state is the one before the STEP but
for the four fault registers, FAULT_PC is the PC the word was fetched from and FAULT_OP is the word fetched there.
(derived; R213, R214) -/
def Obligations.FaultingStepCommitsNothing : Prop :=
  ∀ s t : State, s.runState = .run → step s = .next t → t.runState = .halted →
    t = { s with runState := .halted, faultCause := t.faultCause, faultPc := s.pc, faultOp := s.fetch16 s.pc }

/-- From a HALTED state any sequence of STEP, TICK, KEY_PRESS, KEY_RELEASE and LOAD_ROM, whatever bytes the random
input shows, ends in the same state; RESET ends in RUN with no fault recorded. (derived; R94, R213, R216) -/
def Obligations.HaltedIgnoresAllButReset : Prop :=
  ∀ (s : State) (ops : List Op), s.runState = .halted → (∀ op ∈ ops, ∀ p, op ≠ .reset p) →
    runOps ops s = .next s ∧
    ∀ p, ∃ t, runOps (ops ++ [.reset p]) s = .next t ∧ t.runState = .run ∧ t.faultCause = .none

/-- If a sequence of operations ends in RUN and no operation after some point in it is a RESET, it was in RUN at that
point. (derived; R213, R216) -/
def Obligations.SafeRunsHaveSafePrefixes : Prop :=
  ∀ (a b : List Op) (s : State), (∀ op ∈ b, ∀ p, op ≠ .reset p) → SafeRun (a ++ b) s → SafeRun a s

/-- From every state that meets the invariant, reachable or not, STEP answers a next state: no fault and no refusal of
the model's own. (derived; R34, R81, R95) -/
def Obligations.StepAlwaysAnswers : Prop :=
  ∀ s : State, s.Inv → ∃ t, step s = .next t

/-- From every state that meets the invariant, the next state of a STEP meets it. (derived; R32, R34, R211, R212) -/
def Obligations.StepKeepsInvariant : Prop :=
  ∀ s t : State, s.Inv → step s = .next t → t.Inv

/-- The invariant holds of State.reset. (derived; R20, R34, R240) -/
def Obligations.ResetMeetsInvariant : Prop :=
  State.reset.Inv

/-- From every state that meets the invariant, any sequence of RESET (with a FONT of 80 bytes), LOAD_ROM, STEP
(whatever byte the random input shows), TICK, KEY_PRESS and KEY_RELEASE ends in a next state that meets it.
(derived; R34, R90, R94, R104, R240) -/
def Obligations.EveryRunKeepsInvariant : Prop :=
  ∀ (ops : List Op) (s : State), (∀ p, Op.reset p ∈ ops → fontFits p.font = true) → s.Inv →
    ∃ t, runOps ops s = .next t ∧ t.Inv

/-- For memory in canonical form, after MemWrite(a, b) reading a gives b, and no other byte and no other state has
changed. (derived; R51, R52) -/
def Obligations.MemoryReadAfterWrite : Prop :=
  ∀ (s : State) (a : Addr) (b : Byte), Memory.wf s.mem →
    (s.memWrite a b).memRead a = b ∧ s.onlyChanges (s.memWrite a b) (fun l => l = .byte a)

/-- If two memories in canonical form read the same at each of the 4096 addresses, they are equal lists. (derived; R50,
R51) -/
def Obligations.CanonicalMemoriesThatReadAlikeAreEqual : Prop :=
  ∀ m n : Memory, Memory.wf m → Memory.wf n → (∀ a, a < 4096 → Memory.read m a = Memory.read n a) → m = n

/-- The k-th data address is (I + k) mod 4096 for the 16-bit I, and two offsets up to 15 give the same address only if
they are equal. (derived; R54, R58) -/
def Obligations.DataAddressesWrapAndAreDistinct : Prop :=
  ∀ (s : State) (j k : Nat), (s.ea k).toNat = (s.i.toNat + k) % 4096 ∧
    (j ≤ 15 → k ≤ 15 → s.ea j = s.ea k → j = k)

/-- After FX55, a fetch at the address of the j-th stored byte whose next address is that of the (j+1)-th reads the
word made of V[j] and V[j+1]. (derived; R62, R154) -/
def Obligations.StoredCodeIsSeenByTheNextFetch : Prop :=
  ∀ (s t : State) (x : Nibble) (j : Nat) (p : Addr), Memory.wf s.mem → exec (.opFX55 x) s = .next t →
    j + 1 ≤ x.toNat → p ≠ 0xFFF → p = s.ea j →
    t.fetch16 p = some (wordOfBytes (s.getV (BitVec.ofNat 4 j)) (s.getV (BitVec.ofNat 4 (j + 1))))

/-- The word 0x00EE is 00EE. With SP = j + 1 (1 to 16) it completes: SP is one less, PC = stack[j], nothing else
changes (the slot keeps its value). With SP = 0 it takes StackUnderflow: PC is back at the fetch address, the fault
is recorded with the word 0x00EE, the core is HALTED, nothing else changes. (stated; R110) -/
def Obligations.ReturnPopsOrUnderflows : Prop :=
  EncodedFixed 0x00EE .op00EE ∧ ∀ s : State,
    (∀ j : Nibble, s.sp.toNat = j.toNat + 1 →
      exec .op00EE s = .next { s with sp := s.sp - 1, pc := s.stack[j.toNat]'j.isLt }) ∧
    (s.sp = 0 → exec .op00EE s = .next { s with
      pc := s.pc - 2, runState := .halted, faultCause := .stackUnderflow, faultPc := s.pc - 2,
      faultOp := some 0x00EE })

/-- Every word 0x1NNN is 1NNN with its low 12 bits. It completes in every state: PC = NNN, nothing else changes.
(stated; R111) -/
def Obligations.JumpSetsPc : Prop :=
  EncodedNNN 0x1000 .op1NNN ∧ ∀ (nnn : Addr) (s : State), exec (.op1NNN nnn) s = .next { s with pc := nnn }

/-- Every word 0x2NNN is 2NNN. With SP = j (0 to 15) it completes: stack[j] = PCn, SP is one more, PC = NNN, nothing
else changes. With SP = 16 it takes StackOverflow: PC is back at the fetch address, the fault is recorded with the
word 0x2NNN, the core is HALTED, nothing else changes. (stated; R112) -/
def Obligations.CallPushesOrOverflows : Prop :=
  EncodedNNN 0x2000 .op2NNN ∧ ∀ (nnn : Addr) (s : State),
    (∀ j : Nibble, s.sp.toNat = j.toNat → ∃ t, exec (.op2NNN nnn) s = .next t ∧
      t.stack[j.toNat]'j.isLt = s.pc ∧ t.sp.toNat = j.toNat + 1 ∧ t.pc = nnn ∧
      s.onlyChanges t (fun l => l = .stackAt j ∨ l = .sp ∨ l = .pc)) ∧
    (s.sp = 16 → exec (.op2NNN nnn) s = .next { s with
      pc := s.pc - 2, runState := .halted, faultCause := .stackOverflow, faultPc := s.pc - 2,
      faultOp := some (0x2000 ||| nnn.setWidth 16) })

/-- After a 2NNN that completes, 00EE in any state that still has that stack and stack pointer leaves PC at the address
after the call and SP as before the call. (derived; R110, R112, R119) -/
def Obligations.CallThenReturnComesBack : Prop :=
  ∀ (s t u : State) (nnn : Addr), s.sp.toNat < 16 → exec (.op2NNN nnn) s = .next t → u.stack = t.stack →
    u.sp = t.sp → exec .op00EE u = .next { u with sp := s.sp, pc := s.pc }

/-- In a state whose SP is above 16, which the spec says does not exist, 2NNN and 00EE end in the fault
stackPointerOutOfRange. (derived; R20, R34, notes/assumptions/6.md) -/
def Obligations.StackPointerOutOfRangeStops : Prop :=
  ∀ (s : State) (nnn : Addr), 16 < s.sp.toNat →
    exec (.op2NNN nnn) s = .fault .stackPointerOutOfRange ∧ exec .op00EE s = .fault .stackPointerOutOfRange

/-- Each of 3XNN, 4XNN, 5XY0, 9XY0, EX9E, EXA1 has its words, and completes in every state: PC is PCn + 2 modulo 4096
when VX = NN, VX differs from NN, VX = VY, VX differs from VY, the key of VX's low nibble is down, is up; PCn
otherwise; nothing else changes. (stated; R113, R114, R115, R116, R190, R191) -/
def Obligations.ConditionalSkips : Prop :=
  EncodedXNN 0x3000 .op3XNN ∧ EncodedXNN 0x4000 .op4XNN ∧ EncodedXY 0x5000 .op5XY0 ∧ EncodedXY 0x9000 .op9XY0 ∧
    EncodedX 0xE09E .opEX9E ∧ EncodedX 0xE0A1 .opEXA1 ∧ ∀ (s : State) (x y : Nibble) (nn : Byte),
    exec (.op3XNN x nn) s = .next { s with pc := if s.getV x = nn then s.pc + 2 else s.pc } ∧
    exec (.op4XNN x nn) s = .next { s with pc := if s.getV x ≠ nn then s.pc + 2 else s.pc } ∧
    exec (.op5XY0 x y) s = .next { s with pc := if s.getV x = s.getV y then s.pc + 2 else s.pc } ∧
    exec (.op9XY0 x y) s = .next { s with pc := if s.getV x ≠ s.getV y then s.pc + 2 else s.pc } ∧
    exec (.opEX9E x) s = .next { s with
      pc := if s.key[(s.getV x).toNat % 16]'(Nat.mod_lt _ (by decide)) = true then s.pc + 2 else s.pc } ∧
    exec (.opEXA1 x) s = .next { s with
      pc := if s.key[(s.getV x).toNat % 16]'(Nat.mod_lt _ (by decide)) = false then s.pc + 2 else s.pc }

/-- Every word 0xBNNN is BNNN. It completes in every state: PC = (NNN + off) mod 4096 with off = V[X], X the top nibble
of NNN, under jump_offset_uses_vx, and V0 otherwise; nothing else changes. (stated; R117) -/
def Obligations.JumpWithOffset : Prop :=
  EncodedNNN 0xB000 .opBNNN ∧ ∀ (nnn : Addr) (s : State),
    (s.quirks.jumpOffsetUsesVx = false →
      exec (.opBNNN nnn) s = .next { s with pc := BitVec.ofNat 12 ((nnn.toNat + (s.getV 0).toNat) % 4096) }) ∧
    (s.quirks.jumpOffsetUsesVx = true → exec (.opBNNN nnn) s = .next { s with
      pc := BitVec.ofNat 12 ((nnn.toNat + (s.getV (BitVec.ofNat 4 (nnn.toNat / 256))).toNat) % 4096) })

/-- For every state in RUN whose fetched word decodes to i: the next state of a STEP has the PC the table of R24 gives
i, or PC0 if the STEP faulted; and where no instruction is fetched or decoded, PC0 too. (stated; R24) -/
def Obligations.PcAfterEveryInstruction : Prop :=
  ∀ s t : State, s.runState = .run → step s = .next t →
    (∀ w i, s.fetch16 s.pc = some w → decodeWord w = some i → t.runState = .run → t.pc = i.pcAfter s) ∧
    (t.runState = .halted → t.pc = s.pc)

/-- In RUN: where the word at PC is 1NNN with NNN = PC, and where it is an FX0A and no key is down, any number of
STEPs, whatever bytes the random input shows, leaves the whole state unchanged. (derived; R193, R259) -/
def Obligations.FixedPointsOfStep : Prop :=
  ∀ (s : State) (rands : List Byte), s.runState = .run →
    (s.fetch16 s.pc = some (0x1000 ||| s.pc.setWidth 16) → runOps (rands.map .step) s = .next s) ∧
    (∀ w x, s.fetch16 s.pc = some w → decodeWord w = some (.opFX0A x) → (∀ k, keyDown s.key k = false) →
      runOps (rands.map .step) s = .next s)

/-- Each of the six has its words, and completes in every state: VX is NN; (VX + NN) mod 256; VY; VX or VY; VX and VY;
VX xor VY; and nothing but VX changes, VF included unless X = F. (stated; R130, R131, R132, R133, R134, R135) -/
def Obligations.LoadCopyAddAndLogic : Prop :=
  EncodedXNN 0x6000 .op6XNN ∧ EncodedXNN 0x7000 .op7XNN ∧ EncodedXY 0x8000 .op8XY0 ∧ EncodedXY 0x8001 .op8XY1 ∧
    EncodedXY 0x8002 .op8XY2 ∧ EncodedXY 0x8003 .op8XY3 ∧ ∀ (s : State) (x y : Nibble) (nn : Byte),
    (∃ t, exec (.op6XNN x nn) s = .next t ∧ t.getV x = nn ∧ s.onlyChanges t (fun l => l = .v x)) ∧
    (∃ t, exec (.op7XNN x nn) s = .next t ∧ (t.getV x).toNat = ((s.getV x).toNat + nn.toNat) % 256 ∧
      s.onlyChanges t (fun l => l = .v x)) ∧
    (∃ t, exec (.op8XY0 x y) s = .next t ∧ t.getV x = s.getV y ∧ s.onlyChanges t (fun l => l = .v x)) ∧
    (∃ t, exec (.op8XY1 x y) s = .next t ∧ t.getV x = s.getV x ||| s.getV y ∧
      s.onlyChanges t (fun l => l = .v x)) ∧
    (∃ t, exec (.op8XY2 x y) s = .next t ∧ t.getV x = s.getV x &&& s.getV y ∧
      s.onlyChanges t (fun l => l = .v x)) ∧
    (∃ t, exec (.op8XY3 x y) s = .next t ∧ t.getV x = s.getV x ^^^ s.getV y ∧
      s.onlyChanges t (fun l => l = .v x))

/-- The words 0x8XY4 are 8XY4. It completes in every state: VF is 1 if VX + VY > 255, else 0, whatever X and Y; VX is
the sum modulo 256 unless X = F; both operands are the values from before; nothing else changes. (stated; R136) -/
def Obligations.AddWithCarryOut : Prop :=
  EncodedXY 0x8004 .op8XY4 ∧ ∀ (s : State) (x y : Nibble), ∃ t, exec (.op8XY4 x y) s = .next t ∧
    (x ≠ 0xF → (t.getV x).toNat = ((s.getV x).toNat + (s.getV y).toNat) % 256) ∧
    t.getV 0xF = (if (s.getV x).toNat + (s.getV y).toNat > 255 then 1 else 0) ∧
    s.onlyChanges t (fun l => l = .v x ∨ l = .v 0xF)

/-- The words 0x8XY5 and 0x8XY7 are 8XY5 and 8XY7. Each completes in every state: VX is (VX - VY) mod 256, or (VY - VX)
mod 256, unless X = F; VF is 1 when the minuend is at least the subtrahend, else 0; nothing else changes. (stated;
R137, R139) -/
def Obligations.SubtractBothWays : Prop :=
  EncodedXY 0x8005 .op8XY5 ∧ EncodedXY 0x8007 .op8XY7 ∧ ∀ (s : State) (x y : Nibble),
    (∃ t, exec (.op8XY5 x y) s = .next t ∧
      (x ≠ 0xF → (t.getV x).toNat = ((s.getV x).toNat + 256 - (s.getV y).toNat) % 256) ∧
      t.getV 0xF = (if (s.getV x).toNat ≥ (s.getV y).toNat then 1 else 0) ∧
      s.onlyChanges t (fun l => l = .v x ∨ l = .v 0xF)) ∧
    (∃ t, exec (.op8XY7 x y) s = .next t ∧
      (x ≠ 0xF → (t.getV x).toNat = ((s.getV y).toNat + 256 - (s.getV x).toNat) % 256) ∧
      t.getV 0xF = (if (s.getV y).toNat ≥ (s.getV x).toNat then 1 else 0) ∧
      s.onlyChanges t (fun l => l = .v x ∨ l = .v 0xF))

/-- The words 0x8XY6 and 0x8XYE are 8XY6 and 8XYE. Each completes in every state. With t = VY under shift_uses_vy and
VX otherwise: VX is t / 2, or 2 t mod 256, unless X = F; VF is bit 0, or bit 7, of t; nothing else changes.
(stated; R138, R140) -/
def Obligations.ShiftsByOne : Prop :=
  EncodedXY 0x8006 .op8XY6 ∧ EncodedXY 0x800E .op8XYE ∧ ∀ (s : State) (x y : Nibble) (v : Byte),
    v = (if s.quirks.shiftUsesVy = true then s.getV y else s.getV x) →
    (∃ t, exec (.op8XY6 x y) s = .next t ∧ (x ≠ 0xF → (t.getV x).toNat = v.toNat / 2) ∧
      (t.getV 0xF).toNat = v.toNat % 2 ∧ s.onlyChanges t (fun l => l = .v x ∨ l = .v 0xF)) ∧
    (∃ t, exec (.op8XYE x y) s = .next t ∧ (x ≠ 0xF → (t.getV x).toNat = v.toNat * 2 % 256) ∧
      (t.getV 0xF).toNat = v.toNat / 128 ∧ s.onlyChanges t (fun l => l = .v x ∨ l = .v 0xF))

/-- The words 0xCXNN are CXNN. With any byte rand on the random input it completes in every state: VX = rand and NN and
nothing else changes. In exec, which has no argument for the input, it completes with VX = r and NN for the free
value r and counts one sample more, the model's choice, log entry 4. (derived; R105, R145, notes/assumptions/4.md) -/
def Obligations.RandomByteIsMasked : Prop :=
  EncodedXNN 0xC000 .opCXNN ∧ ∀ (s : State) (x : Nibble) (nn : Byte),
    (∀ rand : Byte, ∃ t, execWith rand (.opCXNN x nn) s = .next t ∧ t.getV x = rand &&& nn ∧
      s.onlyChanges t (fun l => l = .v x)) ∧
    ∃ t, exec (.opCXNN x nn) s = .next t ∧ t.getV x = s.randByte &&& nn ∧ t.samples = s.samples + 1 ∧
      s.onlyChanges t (fun l => l = .v x ∨ l = .samples)

/-- The words 0xANNN and 0xFX29 are ANNN and FX29. Each completes in every state: I is NNN with its upper four bits 0,
or 0x050 + (VX and 0xF) * 5; nothing else changes. (stated; R150, R152) -/
def Obligations.IndexLoads : Prop :=
  EncodedNNN 0xA000 .opANNN ∧ EncodedX 0xF029 .opFX29 ∧ ∀ (s : State) (nnn : Addr) (x : Nibble),
    (∃ t, exec (.opANNN nnn) s = .next t ∧ t.i.toNat = nnn.toNat ∧ s.onlyChanges t (fun l => l = .i)) ∧
    (∃ t, exec (.opFX29 x) s = .next t ∧ t.i.toNat = 0x050 + (s.getV x).toNat % 16 * 5 ∧
      s.onlyChanges t (fun l => l = .i))

/-- The words 0xFX1E are FX1E. It completes in every state: I is the sum modulo 65536; VF is 1 when add_i_sets_vf is on
and I + VX > 0x0FFF, and otherwise keeps its value; nothing else changes. (stated; R151) -/
def Obligations.AddToIndex : Prop :=
  EncodedX 0xF01E .opFX1E ∧ ∀ (s : State) (x : Nibble), ∃ t, exec (.opFX1E x) s = .next t ∧
    t.i.toNat = (s.i.toNat + (s.getV x).toNat) % 65536 ∧
    t.getV 0xF = (if s.quirks.addISetsVf = true ∧ s.i.toNat + (s.getV x).toNat > 0x0FFF then 1 else s.getV 0xF) ∧
    s.onlyChanges t (fun l => l = .i ∨ l = .v 0xF)

/-- The words 0xFX33 are FX33. It completes in every state; every byte outside EA(0) to EA(2) and everything else is
unchanged; with memory in canonical form the three bytes read VX / 100, VX / 10 mod 10 and VX mod 10. (stated;
R153) -/
def Obligations.StoreDecimalDigits : Prop :=
  EncodedX 0xF033 .opFX33 ∧ ∀ (s : State) (x : Nibble), ∃ t, exec (.opFX33 x) s = .next t ∧
    s.onlyChanges t (fun l => ∃ k, k < 3 ∧ l = .byte (s.ea k)) ∧
    (Memory.wf s.mem → (t.memRead (s.ea 0)).toNat = (s.getV x).toNat / 100 ∧
      (t.memRead (s.ea 1)).toNat = (s.getV x).toNat / 10 % 10 ∧
      (t.memRead (s.ea 2)).toNat = (s.getV x).toNat % 10)

/-- The words 0xFX55 are FX55. It completes in every state; every byte outside EA(0) to EA(X) and everything but I is
unchanged; I is (I + X + 1) mod 65536 under load_store_increments_i and unchanged otherwise; with memory in
canonical form byte EA(k) reads V[k] for each k up to X. (stated; R154) -/
def Obligations.StoreRegisters : Prop :=
  EncodedX 0xF055 .opFX55 ∧ ∀ (s : State) (x : Nibble), ∃ t, exec (.opFX55 x) s = .next t ∧
    s.onlyChanges t (fun l => l = .i ∨ ∃ k, k < x.toNat + 1 ∧ l = .byte (s.ea k)) ∧
    t.i.toNat = (if s.quirks.loadStoreIncrementsI = true then (s.i.toNat + x.toNat + 1) % 65536 else s.i.toNat) ∧
    (Memory.wf s.mem → ∀ k : Nibble, k.toNat ≤ x.toNat → t.memRead (s.ea k.toNat) = s.getV k)

/-- The words 0xFX65 are FX65. It completes in every state: V[k] is the byte at EA(k) for each k up to X; registers
above X, memory and everything but I are unchanged; I is (I + X + 1) mod 65536 under load_store_increments_i and
unchanged otherwise. Storing and loading back with the quirk off restores the registers, whatever was done to them
in between. (stated; R155) -/
def Obligations.LoadRegisters : Prop :=
  EncodedX 0xF065 .opFX65 ∧ (∀ (s : State) (x : Nibble), ∃ t, exec (.opFX65 x) s = .next t ∧
    (∀ k : Nibble, k.toNat ≤ x.toNat → t.getV k = s.memRead (s.ea k.toNat)) ∧
    s.onlyChanges t (fun l => l = .i ∨ ∃ k : Nibble, k.toNat ≤ x.toNat ∧ l = .v k) ∧
    t.i.toNat = (if s.quirks.loadStoreIncrementsI = true then (s.i.toNat + x.toNat + 1) % 65536 else s.i.toNat)) ∧
    ∀ (s t : State) (x : Nibble) (regs : Vector Byte 16), Memory.wf s.mem →
    s.quirks.loadStoreIncrementsI = false → exec (.opFX55 x) s = .next t →
    ∃ u, exec (.opFX65 x) { t with v := regs } = .next u ∧
    ∀ k : Nibble, k.toNat ≤ x.toNat → u.getV k = s.getV k

/-- The word 0x00E0 is 00E0. It completes in every state: every fb[r][c] is 0, nothing else changes, VF included.
(stated; R170) -/
def Obligations.ClearScreen : Prop :=
  EncodedFixed 0x00E0 .op00E0 ∧ ∀ s : State, ∃ t, exec .op00E0 s = .next t ∧ (∀ r c, t.display r c = false) ∧
    s.onlyChanges t Loc.isCell

/-- The words 0xDXYN are DXYN. With N at least 1 it completes in every state: each cell becomes fb xor S, S being the
sprite's bytes at EA(0) to EA(N-1) placed at (VX mod 64, VY mod 32), clipped at the right and bottom edge; VF is 1
if some cell was lit under S and 0 otherwise, whatever X and Y, which are read before VF is written; nothing else
changes. The form fb xor S is R173, which the spec marks as derived from R171. (derived; R171, R173) -/
def Obligations.DrawIsXorOfTheClippedSprite : Prop :=
  EncodedXYN 0xD000 .opDXYN ∧ ∀ (s : State) (x y n : Nibble), n ≠ 0 → ∃ t, exec (.opDXYN x y n) s = .next t ∧
    (∀ (r : BitVec 5) (c : BitVec 6), t.display r c = (s.display r c ^^ s.spriteAt x y n r.toNat c.toNat)) ∧
    ((∃ (r : BitVec 5) (c : BitVec 6), s.display r c = true ∧ s.spriteAt x y n r.toNat c.toNat = true) →
      t.getV 0xF = 1) ∧
    ((∀ (r : BitVec 5) (c : BitVec 6), s.display r c = true → s.spriteAt x y n r.toNat c.toNat = false) →
      t.getV 0xF = 0) ∧
    s.onlyChanges t (fun l => l.isCell ∨ l = .v 0xF)

/-- The words 0xDXY0 are DXYN with N = 0. Each completes in every state with no change at all. (stated; R172) -/
def Obligations.DrawOfZeroRowsDoesNothing : Prop :=
  (∀ w : Word, w &&& 0xF00F = 0xD000 → decodeWord w = some (.opDXYN (fieldX w) (fieldY w) 0)) ∧
    ∀ (s : State) (x y : Nibble), exec (.opDXYN x y 0) s = .next s

/-- With neither X nor Y = F, after two DXYN of the same operands the framebuffer is as before the first, and VF is 1
exactly when the first turned some cell on. (derived; R171, R173) -/
def Obligations.DrawingTwiceErases : Prop :=
  ∀ (s t u : State) (x y n : Nibble), x ≠ 0xF → y ≠ 0xF → n ≠ 0 → exec (.opDXYN x y n) s = .next t →
    exec (.opDXYN x y n) t = .next u → u.fb = s.fb ∧
    (u.getV 0xF = 1 ↔ ∃ (r : BitVec 5) (c : BitVec 6), s.display r c = false ∧ t.display r c = true)

/-- The words 0xFX07, 0xFX15, 0xFX18 are FX07, FX15, FX18. Each completes in every state: VX becomes DT, DT becomes VX,
ST becomes VX (and sound_active is 1 exactly when VX > 0); nothing else changes. (stated; R192, R194, R195) -/
def Obligations.TimerInstructions : Prop :=
  EncodedX 0xF007 .opFX07 ∧ EncodedX 0xF015 .opFX15 ∧ EncodedX 0xF018 .opFX18 ∧ ∀ (s : State) (x : Nibble),
    (∃ t, exec (.opFX07 x) s = .next t ∧ t.getV x = s.dt ∧ s.onlyChanges t (fun l => l = .v x)) ∧
    (∃ t, exec (.opFX15 x) s = .next t ∧ t.dt = s.getV x ∧ s.onlyChanges t (fun l => l = .dt)) ∧
    (∃ t, exec (.opFX18 x) s = .next t ∧ t.st = s.getV x ∧ (t.soundActive = true ↔ (s.getV x).toNat > 0) ∧
      s.onlyChanges t (fun l => l = .st))

/-- The words 0xFX0A are FX0A. With no key down it completes with PC two lower and nothing else changed. With a key
down it completes: VX is the index of a pressed key, the one KEY_SELECT reports, the smallest under the default;
nothing but VX changes, the keypad included. (stated; R193) -/
def Obligations.KeyWait : Prop :=
  EncodedX 0xF00A .opFX0A ∧ ∀ (s : State) (x : Nibble),
    ((∀ k, keyDown s.key k = false) → exec (.opFX0A x) s = .next { s with pc := s.pc - 2 }) ∧
    ((∃ k, keyDown s.key k = true) → ∃ t k, exec (.opFX0A x) s = .next t ∧
      selectKey s.keySelect s.key = some k ∧ keyDown s.key k = true ∧ (t.getV x).toNat = k.toNat ∧
      (s.keySelect = [] → ∀ j, keyDown s.key j = true → k.toNat ≤ j.toNat) ∧
      s.onlyChanges t (fun l => l = .v x))

/-- Whatever table RESET latched, the selection answers nothing exactly on the empty set and otherwise a pressed key;
with the empty table it is the lowest. The table is the model's form of the parameter, log entry 3. (derived; R6,
R193, notes/assumptions/3.md) -/
def Obligations.KeySelectionReportsAPressedKey : Prop :=
  ∀ (table : KeySelect) (keys : KeySet),
    (selectKey table keys = none ↔ ∀ k, keyDown keys k = false) ∧
    (∀ k, selectKey table keys = some k → keyDown keys k = true) ∧
    ∀ k j, selectKey [] keys = some k → keyDown keys j = true → k.toNat ≤ j.toNat

/-- For every function from key sets that answers a member of each non-empty set there is a table the selection of
which is that function on every non-empty set. (derived; R6, notes/assumptions/3.md) -/
def Obligations.EveryKeySelectionIsATable : Prop :=
  ∀ f : KeySet → Nibble, (∀ keys, (∃ k, keyDown keys k = true) → keyDown keys (f keys) = true) →
    ∃ table : KeySelect, ∀ keys, (∃ k, keyDown keys k = true) → selectKey table keys = some (f keys)

/-- In RUN, n TICKs leave DT = max(DT - n, 0) and ST = max(ST - n, 0) and change nothing else; in HALTED a TICK changes
nothing. (stated; R99) -/
def Obligations.TicksCountEachTimerDown : Prop :=
  ∀ (s : State) (n : Nat),
    (s.runState = .run → runOps (List.replicate n .tick) s = .next { s with
      dt := BitVec.ofNat 8 (s.dt.toNat - n), st := BitVec.ofNat 8 (s.st.toNat - n) }) ∧
    (s.runState = .halted → runOps (List.replicate n .tick) s = .next s)

/-- In RUN, KEY_PRESS(k) makes key[k] 1 and KEY_RELEASE(k) makes it 0 and nothing else changes; both are idempotent; in
HALTED neither has an effect. (stated; R100) -/
def Obligations.KeyEventsSetOneKey : Prop :=
  ∀ (s : State) (k : Nibble),
    (s.runState = .run → keyDown (s.keyPress k).key k = true ∧ keyDown (s.keyRelease k).key k = false ∧
      s.onlyChanges (s.keyPress k) (fun l => l = .key k) ∧ s.onlyChanges (s.keyRelease k) (fun l => l = .key k)) ∧
    (s.keyPress k).keyPress k = s.keyPress k ∧ (s.keyRelease k).keyRelease k = s.keyRelease k ∧
    (s.runState = .halted → s.keyPress k = s ∧ s.keyRelease k = s) ∧
    applyOp (.keyPress k) s = .next (s.keyPress k) ∧ applyOp (.keyRelease k) s = .next (s.keyRelease k)

/-- For any parameters with a FONT of 80 bytes and any state, RESET leaves: memory 0x050 to 0x09F = FONT and every
other byte 0; every V, stack entry, I, SP, DT, ST 0; PC = 0x200; every cell off; no key down; the quirks and
KEY_SELECT as given; RUN, cause none, FAULT_PC 0, FAULT_OP not valid; memory in canonical form. The model's own
count of free values is as before (its choice, log entry 4). (derived; R20, R240, notes/assumptions/4.md) -/
def Obligations.ResetEstablishesTheResetState : Prop :=
  ∀ (p : Params) (s : State), fontFits p.font = true → ∃ t, applyOp (.reset p) s = .next t ∧
    (∀ a : Addr, t.memRead a =
      if 0x050 ≤ a.toNat ∧ a.toNat < 0x0A0 then p.font.getD (a.toNat - 0x050) 0 else 0) ∧
    (∀ r, t.getV r = 0) ∧ t.pc = 0x200 ∧ t.i = 0 ∧ t.sp = 0 ∧ (∀ j : Nibble, t.stack[j.toNat]'j.isLt = 0) ∧
    t.dt = 0 ∧ t.st = 0 ∧ (∀ r c, t.display r c = false) ∧ (∀ k, keyDown t.key k = false) ∧ t.quirks = p.quirks ∧
    t.keySelect = p.keySelect ∧ t.runState = .run ∧ t.faultCause = .none ∧ t.faultPc = 0 ∧ t.faultOp = none ∧
    t.samples = s.samples ∧ Memory.wf t.mem

/-- RESET with the reference configuration leaves State.reset in every field but the model's own count of free values,
from every state. (derived; R6, R20, R240, notes/assumptions/1.md) -/
def Obligations.ResetStateIsResetOfTheReferenceConfiguration : Prop :=
  ∀ s : State, applyOp (.reset Params.reference) s = .next { State.reset with samples := s.samples }

/-- In RUN, with memory in canonical form: an image of at most 3584 bytes leaves byte j at 0x200 + j and changes no
other byte and nothing else, and memory stays canonical; a longer one is reported and changes nothing, and no fault
is recorded. In HALTED nothing changes. (The spec admits it once, between RESET and the first STEP; a second one
there and one in mid-run are the model's choice, log entry 9.) (derived; R104, R219) -/
def Obligations.LoadRomCopiesOrRefuses : Prop :=
  ∀ (s : State) (rom : List Byte), Memory.wf s.mem → ∃ t, applyOp (.loadRom rom) s = .next t ∧
    (s.runState = .run → rom.length ≤ 3584 → romRejected rom = false ∧ Memory.wf t.mem ∧
      (∀ a : Addr, 0x200 ≤ a.toNat → a.toNat < 0x200 + rom.length → t.memRead a = rom.getD (a.toNat - 0x200) 0) ∧
      s.onlyChanges t (fun l => ∃ a : Addr, l = .byte a ∧ 0x200 ≤ a.toNat ∧ a.toNat < 0x200 + rom.length)) ∧
    (3584 < rom.length → romRejected rom = true ∧ t = s) ∧
    (s.runState = .halted → t = s)

/-- sound_active is true exactly when ST > 0; display at (r, c) is fb[r][c]; fault shows RUNSTATE, the cause code,
FAULT_PC and FAULT_OP. (derived; R101, R102, R103) -/
def Obligations.OutputsShowTheState : Prop :=
  ∀ s : State, (s.soundActive = true ↔ s.st.toNat > 0) ∧
    (∀ (r : BitVec 5) (c : BitVec 6), s.display r c = pixel s.fb r.toNat c.toNat) ∧
    (s.faultView.halted = true ↔ s.runState = .halted) ∧ s.faultView.cause = s.faultCause.code ∧
    s.faultView.pc = s.faultPc ∧ s.faultView.op = s.faultOp

/-- After any sequence of operations without a RESET, the quirks and the key selection are those from before. (derived;
R31, R240) -/
def Obligations.ConfigurationNeverChanges : Prop :=
  ∀ (ops : List Op) (s t : State), (∀ op ∈ ops, ∀ p, op ≠ .reset p) → runOps ops s = .next t →
    t.quirks = s.quirks ∧ t.keySelect = s.keySelect

/-- For every instruction and every state in RUN: if exec answers a next state still in RUN, every location the matrix
of R36 (and, for PC, the table of R24) does not give the instruction is unchanged: registers, memory bytes, I,
stack entries, SP, DT, ST, cells, keys, configuration, fault registers. CXNN may also advance the model's own count
of free values, which is no state of the spec (the model's choice, log entry 4). (derived; R13, R24, R36,
notes/assumptions/4.md) -/
def Obligations.NothingIsWrittenBeyondTheAccessMatrix : Prop :=
  ∀ (i : Instr) (s t : State), s.runState = .run → exec i s = .next t → t.runState = .run →
    s.onlyChanges t (i.mayWrite s)

/-- For every instruction and two states with canonical memory that agree on PC and on every location the matrix lets
it read: if one completes so does the other, and every location holds the same in both results or is unchanged in
both. R36 gives CXNN the input rand; exec has no argument for it, and there the byte is a free value of the model's
own count: that it depends on that count alone is the model's choice, log entry 4, and no rule of the spec.
(derived; R36, notes/assumptions/4.md) -/
def Obligations.NothingIsReadBeyondTheAccessMatrix : Prop :=
  ∀ (i : Instr) (s s' t : State), Memory.wf s.mem → Memory.wf s'.mem → s'.pc = s.pc →
    (∀ l, i.mayRead s l → s.sameAt s' l) → exec i s = .next t →
    ∃ t', exec i s' = .next t' ∧ ∀ l, t.sameAt t' l ∨ (s.sameAt t l ∧ s'.sameAt t' l)

/-- Two states that differ only in stack entries at index SP and above go through every sequence of operations with
results that again differ only there, and so show the same display, sound_active and fault. (derived; R27) -/
def Obligations.DeadStackEntriesAreUnobservable : Prop :=
  ∀ (ops : List Op) (s s' t : State), s.SameLiveStack s' → runOps ops s = .next t →
    ∃ t', runOps ops s' = .next t' ∧ t.SameLiveStack t' ∧ t'.faultView = t.faultView ∧
    t'.soundActive = t.soundActive ∧ ∀ r c, t'.display r c = t.display r c

/-- Where the fetched word is not a CXNN, STEP with any byte on the random input is step. In RUN, where it is a CXNN,
STEP with the byte rand is CXNN with rand at the same state with PC two further. For every next state of step there
is a byte with which STEP answers that state, but for the model's own count of free values, which is as before (log
entry 4). (derived; R35, R105, notes/assumptions/4.md) -/
def Obligations.RandomInputIsAnArgument : Prop :=
  (∀ (rand : Byte) (s : State), (∀ w x nn, s.fetch16 s.pc = some w → decodeWord w ≠ some (.opCXNN x nn)) →
      stepWith rand s = step s) ∧
    (∀ (rand : Byte) (s : State) (w : Word) (x : Nibble) (nn : Byte), s.runState = .run →
      s.fetch16 s.pc = some w → decodeWord w = some (.opCXNN x nn) →
      stepWith rand s = execWith rand (.opCXNN x nn) { s with pc := s.pc + 2 }) ∧
    ∀ s t : State, step s = .next t → ∃ rand, stepWith rand s = .next { t with samples := s.samples }
end

