-- ==== Sys2Proof/Laws/State.lean ====
section
/-! SUPPORT. One lemma per field per named update of State, each true by rfl, so that no proof unfolds an update. -/

namespace Sys2Proof.Machine

@[simp] theorem State.setV_mem (s : State) (r : Nibble) (b : Byte) : (s.setV r b).mem = s.mem := rfl
@[simp] theorem State.setV_v (s : State) (r : Nibble) (b : Byte) : (s.setV r b).v = s.v.set r.toNat b r.isLt := rfl
@[simp] theorem State.setV_pc (s : State) (r : Nibble) (b : Byte) : (s.setV r b).pc = s.pc := rfl
@[simp] theorem State.setV_i (s : State) (r : Nibble) (b : Byte) : (s.setV r b).i = s.i := rfl
@[simp] theorem State.setV_stack (s : State) (r : Nibble) (b : Byte) : (s.setV r b).stack = s.stack := rfl
@[simp] theorem State.setV_sp (s : State) (r : Nibble) (b : Byte) : (s.setV r b).sp = s.sp := rfl
@[simp] theorem State.setV_dt (s : State) (r : Nibble) (b : Byte) : (s.setV r b).dt = s.dt := rfl
@[simp] theorem State.setV_st (s : State) (r : Nibble) (b : Byte) : (s.setV r b).st = s.st := rfl
@[simp] theorem State.setV_fb (s : State) (r : Nibble) (b : Byte) : (s.setV r b).fb = s.fb := rfl
@[simp] theorem State.setV_key (s : State) (r : Nibble) (b : Byte) : (s.setV r b).key = s.key := rfl
@[simp] theorem State.setV_quirks (s : State) (r : Nibble) (b : Byte) : (s.setV r b).quirks = s.quirks := rfl
@[simp] theorem State.setV_keySelect (s : State) (r : Nibble) (b : Byte) : (s.setV r b).keySelect = s.keySelect := rfl
@[simp] theorem State.setV_runState (s : State) (r : Nibble) (b : Byte) : (s.setV r b).runState = s.runState := rfl
@[simp] theorem State.setV_faultCause (s : State) (r : Nibble) (b : Byte) : (s.setV r b).faultCause = s.faultCause := rfl
@[simp] theorem State.setV_faultPc (s : State) (r : Nibble) (b : Byte) : (s.setV r b).faultPc = s.faultPc := rfl
@[simp] theorem State.setV_faultOp (s : State) (r : Nibble) (b : Byte) : (s.setV r b).faultOp = s.faultOp := rfl
@[simp] theorem State.setV_samples (s : State) (r : Nibble) (b : Byte) : (s.setV r b).samples = s.samples := rfl

@[simp] theorem State.setPc_mem (s : State) (t : Addr) : (s.setPc t).mem = s.mem := rfl
@[simp] theorem State.setPc_v (s : State) (t : Addr) : (s.setPc t).v = s.v := rfl
@[simp] theorem State.setPc_pc (s : State) (t : Addr) : (s.setPc t).pc = t := rfl
@[simp] theorem State.setPc_i (s : State) (t : Addr) : (s.setPc t).i = s.i := rfl
@[simp] theorem State.setPc_stack (s : State) (t : Addr) : (s.setPc t).stack = s.stack := rfl
@[simp] theorem State.setPc_sp (s : State) (t : Addr) : (s.setPc t).sp = s.sp := rfl
@[simp] theorem State.setPc_dt (s : State) (t : Addr) : (s.setPc t).dt = s.dt := rfl
@[simp] theorem State.setPc_st (s : State) (t : Addr) : (s.setPc t).st = s.st := rfl
@[simp] theorem State.setPc_fb (s : State) (t : Addr) : (s.setPc t).fb = s.fb := rfl
@[simp] theorem State.setPc_key (s : State) (t : Addr) : (s.setPc t).key = s.key := rfl
@[simp] theorem State.setPc_quirks (s : State) (t : Addr) : (s.setPc t).quirks = s.quirks := rfl
@[simp] theorem State.setPc_keySelect (s : State) (t : Addr) : (s.setPc t).keySelect = s.keySelect := rfl
@[simp] theorem State.setPc_runState (s : State) (t : Addr) : (s.setPc t).runState = s.runState := rfl
@[simp] theorem State.setPc_faultCause (s : State) (t : Addr) : (s.setPc t).faultCause = s.faultCause := rfl
@[simp] theorem State.setPc_faultPc (s : State) (t : Addr) : (s.setPc t).faultPc = s.faultPc := rfl
@[simp] theorem State.setPc_faultOp (s : State) (t : Addr) : (s.setPc t).faultOp = s.faultOp := rfl
@[simp] theorem State.setPc_samples (s : State) (t : Addr) : (s.setPc t).samples = s.samples := rfl

@[simp] theorem State.setI_mem (s : State) (w : Word) : (s.setI w).mem = s.mem := rfl
@[simp] theorem State.setI_v (s : State) (w : Word) : (s.setI w).v = s.v := rfl
@[simp] theorem State.setI_pc (s : State) (w : Word) : (s.setI w).pc = s.pc := rfl
@[simp] theorem State.setI_i (s : State) (w : Word) : (s.setI w).i = w := rfl
@[simp] theorem State.setI_stack (s : State) (w : Word) : (s.setI w).stack = s.stack := rfl
@[simp] theorem State.setI_sp (s : State) (w : Word) : (s.setI w).sp = s.sp := rfl
@[simp] theorem State.setI_dt (s : State) (w : Word) : (s.setI w).dt = s.dt := rfl
@[simp] theorem State.setI_st (s : State) (w : Word) : (s.setI w).st = s.st := rfl
@[simp] theorem State.setI_fb (s : State) (w : Word) : (s.setI w).fb = s.fb := rfl
@[simp] theorem State.setI_key (s : State) (w : Word) : (s.setI w).key = s.key := rfl
@[simp] theorem State.setI_quirks (s : State) (w : Word) : (s.setI w).quirks = s.quirks := rfl
@[simp] theorem State.setI_keySelect (s : State) (w : Word) : (s.setI w).keySelect = s.keySelect := rfl
@[simp] theorem State.setI_runState (s : State) (w : Word) : (s.setI w).runState = s.runState := rfl
@[simp] theorem State.setI_faultCause (s : State) (w : Word) : (s.setI w).faultCause = s.faultCause := rfl
@[simp] theorem State.setI_faultPc (s : State) (w : Word) : (s.setI w).faultPc = s.faultPc := rfl
@[simp] theorem State.setI_faultOp (s : State) (w : Word) : (s.setI w).faultOp = s.faultOp := rfl
@[simp] theorem State.setI_samples (s : State) (w : Word) : (s.setI w).samples = s.samples := rfl

@[simp] theorem State.setDt_mem (s : State) (b : Byte) : (s.setDt b).mem = s.mem := rfl
@[simp] theorem State.setDt_v (s : State) (b : Byte) : (s.setDt b).v = s.v := rfl
@[simp] theorem State.setDt_pc (s : State) (b : Byte) : (s.setDt b).pc = s.pc := rfl
@[simp] theorem State.setDt_i (s : State) (b : Byte) : (s.setDt b).i = s.i := rfl
@[simp] theorem State.setDt_stack (s : State) (b : Byte) : (s.setDt b).stack = s.stack := rfl
@[simp] theorem State.setDt_sp (s : State) (b : Byte) : (s.setDt b).sp = s.sp := rfl
@[simp] theorem State.setDt_dt (s : State) (b : Byte) : (s.setDt b).dt = b := rfl
@[simp] theorem State.setDt_st (s : State) (b : Byte) : (s.setDt b).st = s.st := rfl
@[simp] theorem State.setDt_fb (s : State) (b : Byte) : (s.setDt b).fb = s.fb := rfl
@[simp] theorem State.setDt_key (s : State) (b : Byte) : (s.setDt b).key = s.key := rfl
@[simp] theorem State.setDt_quirks (s : State) (b : Byte) : (s.setDt b).quirks = s.quirks := rfl
@[simp] theorem State.setDt_keySelect (s : State) (b : Byte) : (s.setDt b).keySelect = s.keySelect := rfl
@[simp] theorem State.setDt_runState (s : State) (b : Byte) : (s.setDt b).runState = s.runState := rfl
@[simp] theorem State.setDt_faultCause (s : State) (b : Byte) : (s.setDt b).faultCause = s.faultCause := rfl
@[simp] theorem State.setDt_faultPc (s : State) (b : Byte) : (s.setDt b).faultPc = s.faultPc := rfl
@[simp] theorem State.setDt_faultOp (s : State) (b : Byte) : (s.setDt b).faultOp = s.faultOp := rfl
@[simp] theorem State.setDt_samples (s : State) (b : Byte) : (s.setDt b).samples = s.samples := rfl

@[simp] theorem State.setSt_mem (s : State) (b : Byte) : (s.setSt b).mem = s.mem := rfl
@[simp] theorem State.setSt_v (s : State) (b : Byte) : (s.setSt b).v = s.v := rfl
@[simp] theorem State.setSt_pc (s : State) (b : Byte) : (s.setSt b).pc = s.pc := rfl
@[simp] theorem State.setSt_i (s : State) (b : Byte) : (s.setSt b).i = s.i := rfl
@[simp] theorem State.setSt_stack (s : State) (b : Byte) : (s.setSt b).stack = s.stack := rfl
@[simp] theorem State.setSt_sp (s : State) (b : Byte) : (s.setSt b).sp = s.sp := rfl
@[simp] theorem State.setSt_dt (s : State) (b : Byte) : (s.setSt b).dt = s.dt := rfl
@[simp] theorem State.setSt_st (s : State) (b : Byte) : (s.setSt b).st = b := rfl
@[simp] theorem State.setSt_fb (s : State) (b : Byte) : (s.setSt b).fb = s.fb := rfl
@[simp] theorem State.setSt_key (s : State) (b : Byte) : (s.setSt b).key = s.key := rfl
@[simp] theorem State.setSt_quirks (s : State) (b : Byte) : (s.setSt b).quirks = s.quirks := rfl
@[simp] theorem State.setSt_keySelect (s : State) (b : Byte) : (s.setSt b).keySelect = s.keySelect := rfl
@[simp] theorem State.setSt_runState (s : State) (b : Byte) : (s.setSt b).runState = s.runState := rfl
@[simp] theorem State.setSt_faultCause (s : State) (b : Byte) : (s.setSt b).faultCause = s.faultCause := rfl
@[simp] theorem State.setSt_faultPc (s : State) (b : Byte) : (s.setSt b).faultPc = s.faultPc := rfl
@[simp] theorem State.setSt_faultOp (s : State) (b : Byte) : (s.setSt b).faultOp = s.faultOp := rfl
@[simp] theorem State.setSt_samples (s : State) (b : Byte) : (s.setSt b).samples = s.samples := rfl

@[simp] theorem State.advancePc_mem (s : State) : (s.advancePc).mem = s.mem := rfl
@[simp] theorem State.advancePc_v (s : State) : (s.advancePc).v = s.v := rfl
@[simp] theorem State.advancePc_pc (s : State) : (s.advancePc).pc = s.pc + 2 := rfl
@[simp] theorem State.advancePc_i (s : State) : (s.advancePc).i = s.i := rfl
@[simp] theorem State.advancePc_stack (s : State) : (s.advancePc).stack = s.stack := rfl
@[simp] theorem State.advancePc_sp (s : State) : (s.advancePc).sp = s.sp := rfl
@[simp] theorem State.advancePc_dt (s : State) : (s.advancePc).dt = s.dt := rfl
@[simp] theorem State.advancePc_st (s : State) : (s.advancePc).st = s.st := rfl
@[simp] theorem State.advancePc_fb (s : State) : (s.advancePc).fb = s.fb := rfl
@[simp] theorem State.advancePc_key (s : State) : (s.advancePc).key = s.key := rfl
@[simp] theorem State.advancePc_quirks (s : State) : (s.advancePc).quirks = s.quirks := rfl
@[simp] theorem State.advancePc_keySelect (s : State) : (s.advancePc).keySelect = s.keySelect := rfl
@[simp] theorem State.advancePc_runState (s : State) : (s.advancePc).runState = s.runState := rfl
@[simp] theorem State.advancePc_faultCause (s : State) : (s.advancePc).faultCause = s.faultCause := rfl
@[simp] theorem State.advancePc_faultPc (s : State) : (s.advancePc).faultPc = s.faultPc := rfl
@[simp] theorem State.advancePc_faultOp (s : State) : (s.advancePc).faultOp = s.faultOp := rfl
@[simp] theorem State.advancePc_samples (s : State) : (s.advancePc).samples = s.samples := rfl

@[simp] theorem State.takeRand_mem (s : State) : (s.takeRand).mem = s.mem := rfl
@[simp] theorem State.takeRand_v (s : State) : (s.takeRand).v = s.v := rfl
@[simp] theorem State.takeRand_pc (s : State) : (s.takeRand).pc = s.pc := rfl
@[simp] theorem State.takeRand_i (s : State) : (s.takeRand).i = s.i := rfl
@[simp] theorem State.takeRand_stack (s : State) : (s.takeRand).stack = s.stack := rfl
@[simp] theorem State.takeRand_sp (s : State) : (s.takeRand).sp = s.sp := rfl
@[simp] theorem State.takeRand_dt (s : State) : (s.takeRand).dt = s.dt := rfl
@[simp] theorem State.takeRand_st (s : State) : (s.takeRand).st = s.st := rfl
@[simp] theorem State.takeRand_fb (s : State) : (s.takeRand).fb = s.fb := rfl
@[simp] theorem State.takeRand_key (s : State) : (s.takeRand).key = s.key := rfl
@[simp] theorem State.takeRand_quirks (s : State) : (s.takeRand).quirks = s.quirks := rfl
@[simp] theorem State.takeRand_keySelect (s : State) : (s.takeRand).keySelect = s.keySelect := rfl
@[simp] theorem State.takeRand_runState (s : State) : (s.takeRand).runState = s.runState := rfl
@[simp] theorem State.takeRand_faultCause (s : State) : (s.takeRand).faultCause = s.faultCause := rfl
@[simp] theorem State.takeRand_faultPc (s : State) : (s.takeRand).faultPc = s.faultPc := rfl
@[simp] theorem State.takeRand_faultOp (s : State) : (s.takeRand).faultOp = s.faultOp := rfl
@[simp] theorem State.takeRand_samples (s : State) : (s.takeRand).samples = s.samples + 1 := rfl

/-- CXNN's write is a write of one register. -/
@[simp] theorem State.loadRandom_eq (s : State) (rand : Byte) (x : Nibble) (nn : Byte) :
    s.loadRandom rand x nn = s.setV x (rand &&& nn) := rfl

@[simp] theorem State.memWrite_mem (s : State) (a : Addr) (b : Byte) : (s.memWrite a b).mem = Memory.write s.mem a.toNat b := rfl
@[simp] theorem State.memWrite_v (s : State) (a : Addr) (b : Byte) : (s.memWrite a b).v = s.v := rfl
@[simp] theorem State.memWrite_pc (s : State) (a : Addr) (b : Byte) : (s.memWrite a b).pc = s.pc := rfl
@[simp] theorem State.memWrite_i (s : State) (a : Addr) (b : Byte) : (s.memWrite a b).i = s.i := rfl
@[simp] theorem State.memWrite_stack (s : State) (a : Addr) (b : Byte) : (s.memWrite a b).stack = s.stack := rfl
@[simp] theorem State.memWrite_sp (s : State) (a : Addr) (b : Byte) : (s.memWrite a b).sp = s.sp := rfl
@[simp] theorem State.memWrite_dt (s : State) (a : Addr) (b : Byte) : (s.memWrite a b).dt = s.dt := rfl
@[simp] theorem State.memWrite_st (s : State) (a : Addr) (b : Byte) : (s.memWrite a b).st = s.st := rfl
@[simp] theorem State.memWrite_fb (s : State) (a : Addr) (b : Byte) : (s.memWrite a b).fb = s.fb := rfl
@[simp] theorem State.memWrite_key (s : State) (a : Addr) (b : Byte) : (s.memWrite a b).key = s.key := rfl
@[simp] theorem State.memWrite_quirks (s : State) (a : Addr) (b : Byte) : (s.memWrite a b).quirks = s.quirks := rfl
@[simp] theorem State.memWrite_keySelect (s : State) (a : Addr) (b : Byte) : (s.memWrite a b).keySelect = s.keySelect := rfl
@[simp] theorem State.memWrite_runState (s : State) (a : Addr) (b : Byte) : (s.memWrite a b).runState = s.runState := rfl
@[simp] theorem State.memWrite_faultCause (s : State) (a : Addr) (b : Byte) : (s.memWrite a b).faultCause = s.faultCause := rfl
@[simp] theorem State.memWrite_faultPc (s : State) (a : Addr) (b : Byte) : (s.memWrite a b).faultPc = s.faultPc := rfl
@[simp] theorem State.memWrite_faultOp (s : State) (a : Addr) (b : Byte) : (s.memWrite a b).faultOp = s.faultOp := rfl
@[simp] theorem State.memWrite_samples (s : State) (a : Addr) (b : Byte) : (s.memWrite a b).samples = s.samples := rfl

@[simp] theorem State.setFlag_mem (s : State) (b : Bool) : (s.setFlag b).mem = s.mem := rfl
@[simp] theorem State.setFlag_v (s : State) (b : Bool) : (s.setFlag b).v = (s.setV vf (flagByte b)).v := rfl
@[simp] theorem State.setFlag_pc (s : State) (b : Bool) : (s.setFlag b).pc = s.pc := rfl
@[simp] theorem State.setFlag_i (s : State) (b : Bool) : (s.setFlag b).i = s.i := rfl
@[simp] theorem State.setFlag_stack (s : State) (b : Bool) : (s.setFlag b).stack = s.stack := rfl
@[simp] theorem State.setFlag_sp (s : State) (b : Bool) : (s.setFlag b).sp = s.sp := rfl
@[simp] theorem State.setFlag_dt (s : State) (b : Bool) : (s.setFlag b).dt = s.dt := rfl
@[simp] theorem State.setFlag_st (s : State) (b : Bool) : (s.setFlag b).st = s.st := rfl
@[simp] theorem State.setFlag_fb (s : State) (b : Bool) : (s.setFlag b).fb = s.fb := rfl
@[simp] theorem State.setFlag_key (s : State) (b : Bool) : (s.setFlag b).key = s.key := rfl
@[simp] theorem State.setFlag_quirks (s : State) (b : Bool) : (s.setFlag b).quirks = s.quirks := rfl
@[simp] theorem State.setFlag_keySelect (s : State) (b : Bool) : (s.setFlag b).keySelect = s.keySelect := rfl
@[simp] theorem State.setFlag_runState (s : State) (b : Bool) : (s.setFlag b).runState = s.runState := rfl
@[simp] theorem State.setFlag_faultCause (s : State) (b : Bool) : (s.setFlag b).faultCause = s.faultCause := rfl
@[simp] theorem State.setFlag_faultPc (s : State) (b : Bool) : (s.setFlag b).faultPc = s.faultPc := rfl
@[simp] theorem State.setFlag_faultOp (s : State) (b : Bool) : (s.setFlag b).faultOp = s.faultOp := rfl
@[simp] theorem State.setFlag_samples (s : State) (b : Bool) : (s.setFlag b).samples = s.samples := rfl

@[simp] theorem State.setResultAndFlag_mem (s : State) (x : Nibble) (b : Byte) (f : Bool) : (s.setResultAndFlag x b f).mem = s.mem := rfl
@[simp] theorem State.setResultAndFlag_v (s : State) (x : Nibble) (b : Byte) (f : Bool) : (s.setResultAndFlag x b f).v = ((s.setV x b).setV vf (flagByte f)).v := rfl
@[simp] theorem State.setResultAndFlag_pc (s : State) (x : Nibble) (b : Byte) (f : Bool) : (s.setResultAndFlag x b f).pc = s.pc := rfl
@[simp] theorem State.setResultAndFlag_i (s : State) (x : Nibble) (b : Byte) (f : Bool) : (s.setResultAndFlag x b f).i = s.i := rfl
@[simp] theorem State.setResultAndFlag_stack (s : State) (x : Nibble) (b : Byte) (f : Bool) : (s.setResultAndFlag x b f).stack = s.stack := rfl
@[simp] theorem State.setResultAndFlag_sp (s : State) (x : Nibble) (b : Byte) (f : Bool) : (s.setResultAndFlag x b f).sp = s.sp := rfl
@[simp] theorem State.setResultAndFlag_dt (s : State) (x : Nibble) (b : Byte) (f : Bool) : (s.setResultAndFlag x b f).dt = s.dt := rfl
@[simp] theorem State.setResultAndFlag_st (s : State) (x : Nibble) (b : Byte) (f : Bool) : (s.setResultAndFlag x b f).st = s.st := rfl
@[simp] theorem State.setResultAndFlag_fb (s : State) (x : Nibble) (b : Byte) (f : Bool) : (s.setResultAndFlag x b f).fb = s.fb := rfl
@[simp] theorem State.setResultAndFlag_key (s : State) (x : Nibble) (b : Byte) (f : Bool) : (s.setResultAndFlag x b f).key = s.key := rfl
@[simp] theorem State.setResultAndFlag_quirks (s : State) (x : Nibble) (b : Byte) (f : Bool) : (s.setResultAndFlag x b f).quirks = s.quirks := rfl
@[simp] theorem State.setResultAndFlag_keySelect (s : State) (x : Nibble) (b : Byte) (f : Bool) : (s.setResultAndFlag x b f).keySelect = s.keySelect := rfl
@[simp] theorem State.setResultAndFlag_runState (s : State) (x : Nibble) (b : Byte) (f : Bool) : (s.setResultAndFlag x b f).runState = s.runState := rfl
@[simp] theorem State.setResultAndFlag_faultCause (s : State) (x : Nibble) (b : Byte) (f : Bool) : (s.setResultAndFlag x b f).faultCause = s.faultCause := rfl
@[simp] theorem State.setResultAndFlag_faultPc (s : State) (x : Nibble) (b : Byte) (f : Bool) : (s.setResultAndFlag x b f).faultPc = s.faultPc := rfl
@[simp] theorem State.setResultAndFlag_faultOp (s : State) (x : Nibble) (b : Byte) (f : Bool) : (s.setResultAndFlag x b f).faultOp = s.faultOp := rfl
@[simp] theorem State.setResultAndFlag_samples (s : State) (x : Nibble) (b : Byte) (f : Bool) : (s.setResultAndFlag x b f).samples = s.samples := rfl

@[simp] theorem State.setKey_mem (s : State) (k : Nibble) (b : Bool) : (s.setKey k b).mem = s.mem := rfl
@[simp] theorem State.setKey_v (s : State) (k : Nibble) (b : Bool) : (s.setKey k b).v = s.v := rfl
@[simp] theorem State.setKey_pc (s : State) (k : Nibble) (b : Bool) : (s.setKey k b).pc = s.pc := rfl
@[simp] theorem State.setKey_i (s : State) (k : Nibble) (b : Bool) : (s.setKey k b).i = s.i := rfl
@[simp] theorem State.setKey_stack (s : State) (k : Nibble) (b : Bool) : (s.setKey k b).stack = s.stack := rfl
@[simp] theorem State.setKey_sp (s : State) (k : Nibble) (b : Bool) : (s.setKey k b).sp = s.sp := rfl
@[simp] theorem State.setKey_dt (s : State) (k : Nibble) (b : Bool) : (s.setKey k b).dt = s.dt := rfl
@[simp] theorem State.setKey_st (s : State) (k : Nibble) (b : Bool) : (s.setKey k b).st = s.st := rfl
@[simp] theorem State.setKey_fb (s : State) (k : Nibble) (b : Bool) : (s.setKey k b).fb = s.fb := rfl
@[simp] theorem State.setKey_key (s : State) (k : Nibble) (b : Bool) : (s.setKey k b).key = s.key.set k.toNat b k.isLt := rfl
@[simp] theorem State.setKey_quirks (s : State) (k : Nibble) (b : Bool) : (s.setKey k b).quirks = s.quirks := rfl
@[simp] theorem State.setKey_keySelect (s : State) (k : Nibble) (b : Bool) : (s.setKey k b).keySelect = s.keySelect := rfl
@[simp] theorem State.setKey_runState (s : State) (k : Nibble) (b : Bool) : (s.setKey k b).runState = s.runState := rfl
@[simp] theorem State.setKey_faultCause (s : State) (k : Nibble) (b : Bool) : (s.setKey k b).faultCause = s.faultCause := rfl
@[simp] theorem State.setKey_faultPc (s : State) (k : Nibble) (b : Bool) : (s.setKey k b).faultPc = s.faultPc := rfl
@[simp] theorem State.setKey_faultOp (s : State) (k : Nibble) (b : Bool) : (s.setKey k b).faultOp = s.faultOp := rfl
@[simp] theorem State.setKey_samples (s : State) (k : Nibble) (b : Bool) : (s.setKey k b).samples = s.samples := rfl

@[simp] theorem State.takeFault_mem (s : State) (c : FaultCause) (p : Addr) (o : Option Word) : (s.takeFault c p o).mem = s.mem := rfl
@[simp] theorem State.takeFault_v (s : State) (c : FaultCause) (p : Addr) (o : Option Word) : (s.takeFault c p o).v = s.v := rfl
@[simp] theorem State.takeFault_pc (s : State) (c : FaultCause) (p : Addr) (o : Option Word) : (s.takeFault c p o).pc = p := rfl
@[simp] theorem State.takeFault_i (s : State) (c : FaultCause) (p : Addr) (o : Option Word) : (s.takeFault c p o).i = s.i := rfl
@[simp] theorem State.takeFault_stack (s : State) (c : FaultCause) (p : Addr) (o : Option Word) : (s.takeFault c p o).stack = s.stack := rfl
@[simp] theorem State.takeFault_sp (s : State) (c : FaultCause) (p : Addr) (o : Option Word) : (s.takeFault c p o).sp = s.sp := rfl
@[simp] theorem State.takeFault_dt (s : State) (c : FaultCause) (p : Addr) (o : Option Word) : (s.takeFault c p o).dt = s.dt := rfl
@[simp] theorem State.takeFault_st (s : State) (c : FaultCause) (p : Addr) (o : Option Word) : (s.takeFault c p o).st = s.st := rfl
@[simp] theorem State.takeFault_fb (s : State) (c : FaultCause) (p : Addr) (o : Option Word) : (s.takeFault c p o).fb = s.fb := rfl
@[simp] theorem State.takeFault_key (s : State) (c : FaultCause) (p : Addr) (o : Option Word) : (s.takeFault c p o).key = s.key := rfl
@[simp] theorem State.takeFault_quirks (s : State) (c : FaultCause) (p : Addr) (o : Option Word) : (s.takeFault c p o).quirks = s.quirks := rfl
@[simp] theorem State.takeFault_keySelect (s : State) (c : FaultCause) (p : Addr) (o : Option Word) : (s.takeFault c p o).keySelect = s.keySelect := rfl
@[simp] theorem State.takeFault_runState (s : State) (c : FaultCause) (p : Addr) (o : Option Word) : (s.takeFault c p o).runState = .halted := rfl
@[simp] theorem State.takeFault_faultCause (s : State) (c : FaultCause) (p : Addr) (o : Option Word) : (s.takeFault c p o).faultCause = c := rfl
@[simp] theorem State.takeFault_faultPc (s : State) (c : FaultCause) (p : Addr) (o : Option Word) : (s.takeFault c p o).faultPc = p := rfl
@[simp] theorem State.takeFault_faultOp (s : State) (c : FaultCause) (p : Addr) (o : Option Word) : (s.takeFault c p o).faultOp = o := rfl
@[simp] theorem State.takeFault_samples (s : State) (c : FaultCause) (p : Addr) (o : Option Word) : (s.takeFault c p o).samples = s.samples := rfl

/-! The loops and the conditional updates, by induction or by cases. -/

@[simp] theorem State.storeBytes_v (s : State) (g : Nat → Byte) (n : Nat) : (s.storeBytes g n).v = s.v := by
  induction n with
  | zero => rfl
  | succ n ih => simpa [State.storeBytes] using ih
@[simp] theorem State.storeBytes_pc (s : State) (g : Nat → Byte) (n : Nat) : (s.storeBytes g n).pc = s.pc := by
  induction n with
  | zero => rfl
  | succ n ih => simpa [State.storeBytes] using ih
@[simp] theorem State.storeBytes_i (s : State) (g : Nat → Byte) (n : Nat) : (s.storeBytes g n).i = s.i := by
  induction n with
  | zero => rfl
  | succ n ih => simpa [State.storeBytes] using ih
@[simp] theorem State.storeBytes_stack (s : State) (g : Nat → Byte) (n : Nat) : (s.storeBytes g n).stack = s.stack := by
  induction n with
  | zero => rfl
  | succ n ih => simpa [State.storeBytes] using ih
@[simp] theorem State.storeBytes_sp (s : State) (g : Nat → Byte) (n : Nat) : (s.storeBytes g n).sp = s.sp := by
  induction n with
  | zero => rfl
  | succ n ih => simpa [State.storeBytes] using ih
@[simp] theorem State.storeBytes_dt (s : State) (g : Nat → Byte) (n : Nat) : (s.storeBytes g n).dt = s.dt := by
  induction n with
  | zero => rfl
  | succ n ih => simpa [State.storeBytes] using ih
@[simp] theorem State.storeBytes_st (s : State) (g : Nat → Byte) (n : Nat) : (s.storeBytes g n).st = s.st := by
  induction n with
  | zero => rfl
  | succ n ih => simpa [State.storeBytes] using ih
@[simp] theorem State.storeBytes_fb (s : State) (g : Nat → Byte) (n : Nat) : (s.storeBytes g n).fb = s.fb := by
  induction n with
  | zero => rfl
  | succ n ih => simpa [State.storeBytes] using ih
@[simp] theorem State.storeBytes_key (s : State) (g : Nat → Byte) (n : Nat) : (s.storeBytes g n).key = s.key := by
  induction n with
  | zero => rfl
  | succ n ih => simpa [State.storeBytes] using ih
@[simp] theorem State.storeBytes_quirks (s : State) (g : Nat → Byte) (n : Nat) : (s.storeBytes g n).quirks = s.quirks := by
  induction n with
  | zero => rfl
  | succ n ih => simpa [State.storeBytes] using ih
@[simp] theorem State.storeBytes_keySelect (s : State) (g : Nat → Byte) (n : Nat) : (s.storeBytes g n).keySelect = s.keySelect := by
  induction n with
  | zero => rfl
  | succ n ih => simpa [State.storeBytes] using ih
@[simp] theorem State.storeBytes_runState (s : State) (g : Nat → Byte) (n : Nat) : (s.storeBytes g n).runState = s.runState := by
  induction n with
  | zero => rfl
  | succ n ih => simpa [State.storeBytes] using ih
@[simp] theorem State.storeBytes_faultCause (s : State) (g : Nat → Byte) (n : Nat) : (s.storeBytes g n).faultCause = s.faultCause := by
  induction n with
  | zero => rfl
  | succ n ih => simpa [State.storeBytes] using ih
@[simp] theorem State.storeBytes_faultPc (s : State) (g : Nat → Byte) (n : Nat) : (s.storeBytes g n).faultPc = s.faultPc := by
  induction n with
  | zero => rfl
  | succ n ih => simpa [State.storeBytes] using ih
@[simp] theorem State.storeBytes_faultOp (s : State) (g : Nat → Byte) (n : Nat) : (s.storeBytes g n).faultOp = s.faultOp := by
  induction n with
  | zero => rfl
  | succ n ih => simpa [State.storeBytes] using ih
@[simp] theorem State.storeBytes_samples (s : State) (g : Nat → Byte) (n : Nat) : (s.storeBytes g n).samples = s.samples := by
  induction n with
  | zero => rfl
  | succ n ih => simpa [State.storeBytes] using ih
@[simp] theorem State.loadRegs_mem (s : State) (n : Nat) : (s.loadRegs n).mem = s.mem := by
  induction n with
  | zero => rfl
  | succ n ih => simpa [State.loadRegs] using ih
@[simp] theorem State.loadRegs_pc (s : State) (n : Nat) : (s.loadRegs n).pc = s.pc := by
  induction n with
  | zero => rfl
  | succ n ih => simpa [State.loadRegs] using ih
@[simp] theorem State.loadRegs_i (s : State) (n : Nat) : (s.loadRegs n).i = s.i := by
  induction n with
  | zero => rfl
  | succ n ih => simpa [State.loadRegs] using ih
@[simp] theorem State.loadRegs_stack (s : State) (n : Nat) : (s.loadRegs n).stack = s.stack := by
  induction n with
  | zero => rfl
  | succ n ih => simpa [State.loadRegs] using ih
@[simp] theorem State.loadRegs_sp (s : State) (n : Nat) : (s.loadRegs n).sp = s.sp := by
  induction n with
  | zero => rfl
  | succ n ih => simpa [State.loadRegs] using ih
@[simp] theorem State.loadRegs_dt (s : State) (n : Nat) : (s.loadRegs n).dt = s.dt := by
  induction n with
  | zero => rfl
  | succ n ih => simpa [State.loadRegs] using ih
@[simp] theorem State.loadRegs_st (s : State) (n : Nat) : (s.loadRegs n).st = s.st := by
  induction n with
  | zero => rfl
  | succ n ih => simpa [State.loadRegs] using ih
@[simp] theorem State.loadRegs_fb (s : State) (n : Nat) : (s.loadRegs n).fb = s.fb := by
  induction n with
  | zero => rfl
  | succ n ih => simpa [State.loadRegs] using ih
@[simp] theorem State.loadRegs_key (s : State) (n : Nat) : (s.loadRegs n).key = s.key := by
  induction n with
  | zero => rfl
  | succ n ih => simpa [State.loadRegs] using ih
@[simp] theorem State.loadRegs_quirks (s : State) (n : Nat) : (s.loadRegs n).quirks = s.quirks := by
  induction n with
  | zero => rfl
  | succ n ih => simpa [State.loadRegs] using ih
@[simp] theorem State.loadRegs_keySelect (s : State) (n : Nat) : (s.loadRegs n).keySelect = s.keySelect := by
  induction n with
  | zero => rfl
  | succ n ih => simpa [State.loadRegs] using ih
@[simp] theorem State.loadRegs_runState (s : State) (n : Nat) : (s.loadRegs n).runState = s.runState := by
  induction n with
  | zero => rfl
  | succ n ih => simpa [State.loadRegs] using ih
@[simp] theorem State.loadRegs_faultCause (s : State) (n : Nat) : (s.loadRegs n).faultCause = s.faultCause := by
  induction n with
  | zero => rfl
  | succ n ih => simpa [State.loadRegs] using ih
@[simp] theorem State.loadRegs_faultPc (s : State) (n : Nat) : (s.loadRegs n).faultPc = s.faultPc := by
  induction n with
  | zero => rfl
  | succ n ih => simpa [State.loadRegs] using ih
@[simp] theorem State.loadRegs_faultOp (s : State) (n : Nat) : (s.loadRegs n).faultOp = s.faultOp := by
  induction n with
  | zero => rfl
  | succ n ih => simpa [State.loadRegs] using ih
@[simp] theorem State.loadRegs_samples (s : State) (n : Nat) : (s.loadRegs n).samples = s.samples := by
  induction n with
  | zero => rfl
  | succ n ih => simpa [State.loadRegs] using ih
@[simp] theorem State.bumpIndex_mem (s : State) (x : Nibble) : (s.bumpIndex x).mem = s.mem := by
  unfold State.bumpIndex; split <;> rfl
@[simp] theorem State.bumpIndex_v (s : State) (x : Nibble) : (s.bumpIndex x).v = s.v := by
  unfold State.bumpIndex; split <;> rfl
@[simp] theorem State.bumpIndex_pc (s : State) (x : Nibble) : (s.bumpIndex x).pc = s.pc := by
  unfold State.bumpIndex; split <;> rfl
@[simp] theorem State.bumpIndex_stack (s : State) (x : Nibble) : (s.bumpIndex x).stack = s.stack := by
  unfold State.bumpIndex; split <;> rfl
@[simp] theorem State.bumpIndex_sp (s : State) (x : Nibble) : (s.bumpIndex x).sp = s.sp := by
  unfold State.bumpIndex; split <;> rfl
@[simp] theorem State.bumpIndex_dt (s : State) (x : Nibble) : (s.bumpIndex x).dt = s.dt := by
  unfold State.bumpIndex; split <;> rfl
@[simp] theorem State.bumpIndex_st (s : State) (x : Nibble) : (s.bumpIndex x).st = s.st := by
  unfold State.bumpIndex; split <;> rfl
@[simp] theorem State.bumpIndex_fb (s : State) (x : Nibble) : (s.bumpIndex x).fb = s.fb := by
  unfold State.bumpIndex; split <;> rfl
@[simp] theorem State.bumpIndex_key (s : State) (x : Nibble) : (s.bumpIndex x).key = s.key := by
  unfold State.bumpIndex; split <;> rfl
@[simp] theorem State.bumpIndex_quirks (s : State) (x : Nibble) : (s.bumpIndex x).quirks = s.quirks := by
  unfold State.bumpIndex; split <;> rfl
@[simp] theorem State.bumpIndex_keySelect (s : State) (x : Nibble) : (s.bumpIndex x).keySelect = s.keySelect := by
  unfold State.bumpIndex; split <;> rfl
@[simp] theorem State.bumpIndex_runState (s : State) (x : Nibble) : (s.bumpIndex x).runState = s.runState := by
  unfold State.bumpIndex; split <;> rfl
@[simp] theorem State.bumpIndex_faultCause (s : State) (x : Nibble) : (s.bumpIndex x).faultCause = s.faultCause := by
  unfold State.bumpIndex; split <;> rfl
@[simp] theorem State.bumpIndex_faultPc (s : State) (x : Nibble) : (s.bumpIndex x).faultPc = s.faultPc := by
  unfold State.bumpIndex; split <;> rfl
@[simp] theorem State.bumpIndex_faultOp (s : State) (x : Nibble) : (s.bumpIndex x).faultOp = s.faultOp := by
  unfold State.bumpIndex; split <;> rfl
@[simp] theorem State.bumpIndex_samples (s : State) (x : Nibble) : (s.bumpIndex x).samples = s.samples := by
  unfold State.bumpIndex; split <;> rfl
@[simp] theorem State.skipIf_mem (s : State) (b : Bool) : (s.skipIf b).mem = s.mem := by
  cases b <;> rfl
@[simp] theorem State.skipIf_v (s : State) (b : Bool) : (s.skipIf b).v = s.v := by
  cases b <;> rfl
@[simp] theorem State.skipIf_i (s : State) (b : Bool) : (s.skipIf b).i = s.i := by
  cases b <;> rfl
@[simp] theorem State.skipIf_stack (s : State) (b : Bool) : (s.skipIf b).stack = s.stack := by
  cases b <;> rfl
@[simp] theorem State.skipIf_sp (s : State) (b : Bool) : (s.skipIf b).sp = s.sp := by
  cases b <;> rfl
@[simp] theorem State.skipIf_dt (s : State) (b : Bool) : (s.skipIf b).dt = s.dt := by
  cases b <;> rfl
@[simp] theorem State.skipIf_st (s : State) (b : Bool) : (s.skipIf b).st = s.st := by
  cases b <;> rfl
@[simp] theorem State.skipIf_fb (s : State) (b : Bool) : (s.skipIf b).fb = s.fb := by
  cases b <;> rfl
@[simp] theorem State.skipIf_key (s : State) (b : Bool) : (s.skipIf b).key = s.key := by
  cases b <;> rfl
@[simp] theorem State.skipIf_quirks (s : State) (b : Bool) : (s.skipIf b).quirks = s.quirks := by
  cases b <;> rfl
@[simp] theorem State.skipIf_keySelect (s : State) (b : Bool) : (s.skipIf b).keySelect = s.keySelect := by
  cases b <;> rfl
@[simp] theorem State.skipIf_runState (s : State) (b : Bool) : (s.skipIf b).runState = s.runState := by
  cases b <;> rfl
@[simp] theorem State.skipIf_faultCause (s : State) (b : Bool) : (s.skipIf b).faultCause = s.faultCause := by
  cases b <;> rfl
@[simp] theorem State.skipIf_faultPc (s : State) (b : Bool) : (s.skipIf b).faultPc = s.faultPc := by
  cases b <;> rfl
@[simp] theorem State.skipIf_faultOp (s : State) (b : Bool) : (s.skipIf b).faultOp = s.faultOp := by
  cases b <;> rfl
@[simp] theorem State.skipIf_samples (s : State) (b : Bool) : (s.skipIf b).samples = s.samples := by
  cases b <;> rfl
@[simp] theorem State.skipIf_pc (s : State) (b : Bool) : (s.skipIf b).pc = if b then s.pc + 2 else s.pc := by
  cases b <;> rfl
@[simp] theorem State.bumpIndex_i (s : State) (x : Nibble) :
    (s.bumpIndex x).i = if s.quirks.loadStoreIncrementsI then s.i + BitVec.ofNat 16 (x.toNat + 1) else s.i := by
  unfold State.bumpIndex; split <;> rfl

end Sys2Proof.Machine
end

