-- ==== Sys2Proof/Laws/Memory.lean ====
section
/-! SUPPORT. The memory laws: read after write, and that every memory operation keeps the canonical form
(20_memory.md R51, R52). -/

namespace Sys2Proof.Machine

/-- Reading an address below every listed one gives the reset contents. -/
theorem Memory.read_of_lt : ∀ {m : Memory} {a : Nat}, (∀ c ∈ m, a < c.1) → Memory.read m a = Config.resetByte a
  | [], _, _ => rfl
  | (b, w) :: rest, a, h => by
    have hb : a < b := h (b, w) (by simp)
    simp only [Memory.read, show a ≠ b by omega, if_false]
    exact Memory.read_of_lt fun c hc => h c (by simp [hc])

theorem Memory.read_cons_ne {m : Memory} {a b : Nat} {w : Byte} (h : a ≠ b) :
    Memory.read (Memory.cons b w m) a = Memory.read m a := by
  unfold Memory.cons; split
  · rfl
  · simp [Memory.read, h]

/-- The address written reads as the byte written. -/
theorem Memory.read_write_same : ∀ {m : Memory} (a : Nat) (v : Byte), m.Pairwise (fun c d => c.1 < d.1) →
    Memory.read (Memory.write m a v) a = v
  | [], a, v, _ => by
    unfold Memory.write Memory.cons; split
    · next h => simp [Memory.read, h]
    · simp [Memory.read]
  | (b, w) :: rest, a, v, hs => by
    obtain ⟨hlt, hrest⟩ := List.pairwise_cons.1 hs
    unfold Memory.write Memory.cons
    split
    · next hab =>
      split
      · next hv =>
        rw [hv]
        refine Memory.read_of_lt fun c hc => ?_
        rcases List.mem_cons.1 hc with rfl | hc
        · exact hab
        · exact lt_trans hab (hlt c hc)
      · simp [Memory.read]
    · split
      · next hab =>
        subst hab
        split
        · next hv => rw [hv]; exact Memory.read_of_lt fun c hc => hlt c hc
        · simp [Memory.read]
      · next hab =>
        simp only [Memory.read, hab, if_false]
        exact Memory.read_write_same a v hrest

/-- Every other address reads as before, whatever the list. -/
theorem Memory.read_write_ne : ∀ {m : Memory} {a b : Nat} (v : Byte), b ≠ a →
    Memory.read (Memory.write m a v) b = Memory.read m b
  | [], a, b, v, h => by simp only [Memory.write]; rw [Memory.read_cons_ne h]
  | (c, w) :: rest, a, b, v, h => by
    unfold Memory.write
    split
    · rw [Memory.read_cons_ne h]
    · split
      · next hac => subst hac; rw [Memory.read_cons_ne h]; simp [Memory.read, h]
      · by_cases hbc : b = c
        · simp [Memory.read, hbc]
        · simp only [Memory.read, hbc, if_false]
          exact Memory.read_write_ne v h

/-- Every entry of a written memory is an old one or the one written. -/
theorem Memory.mem_write : ∀ {m : Memory} {a : Nat} {v : Byte} {c : Host.Cell},
    c ∈ Memory.write m a v → c ∈ m ∨ (c = (a, v) ∧ v ≠ Config.resetByte a)
  | [], a, v, c, h => by
    unfold Memory.write Memory.cons at h; split at h <;> simp_all
  | (b, w) :: rest, a, v, c, h => by
    unfold Memory.write Memory.cons at h
    split at h
    · split at h <;> simp_all; tauto
    · split at h
      · split at h <;> simp_all; tauto
      · rcases List.mem_cons.1 h with rfl | h
        · simp
        · rcases Memory.mem_write h with h | h
          · simp [h]
          · exact .inr h

theorem Memory.sorted_write : ∀ {m : Memory} (a : Nat) (v : Byte), m.Pairwise (fun c d => c.1 < d.1) →
    (Memory.write m a v).Pairwise (fun c d => c.1 < d.1)
  | [], a, v, _ => by unfold Memory.write Memory.cons; split <;> simp
  | (b, w) :: rest, a, v, hs => by
    obtain ⟨hlt, hrest⟩ := List.pairwise_cons.1 hs
    unfold Memory.write Memory.cons
    split
    · next hab =>
      split
      · exact hs
      · refine List.pairwise_cons.2 ⟨fun c hc => ?_, hs⟩
        rcases List.mem_cons.1 hc with rfl | hc
        · exact hab
        · exact lt_trans hab (hlt c hc)
    · split
      · next hab =>
        subst hab
        split
        · exact hrest
        · exact List.pairwise_cons.2 ⟨hlt, hrest⟩
      · next h1 h2 =>
        refine List.pairwise_cons.2 ⟨fun c hc => ?_, Memory.sorted_write a v hrest⟩
        rcases Memory.mem_write hc with hc | ⟨rfl, -⟩
        · exact hlt c hc
        · show b < a; omega

/-- A write inside the address space keeps the canonical form. -/
theorem Memory.wf_write {m : Memory} {a : Nat} (v : Byte) (h : Memory.wf m) (ha : a < Config.memSize) :
    Memory.wf (Memory.write m a v) := by
  refine ⟨Memory.sorted_write a v h.1, fun c hc => ?_⟩
  rcases Memory.mem_write hc with hc | ⟨rfl, hv⟩
  · exact h.2 c hc
  · exact ⟨ha, hv⟩

/-- So does writing a list of bytes that fits. -/
theorem Memory.wf_writeList : ∀ {bs : List Byte} {a : Nat} {m : Memory}, Memory.wf m → a + bs.length ≤ Config.memSize →
    Memory.wf (Memory.writeList bs a m)
  | [], _, _, h, _ => h
  | b :: bs, a, m, h, hl => by
    simp only [List.length_cons] at hl
    rw [Memory.writeList]
    exact Memory.wf_writeList (Memory.wf_write b h (a := a) (by omega)) (by omega)

/-- The reset memory is canonical. -/
theorem Memory.wf_reset : Memory.wf State.reset.mem := ⟨List.Pairwise.nil, by simp [State.reset]⟩

/-- What a memory reads as after a list of bytes was written to it: the list's byte inside, the old byte outside. -/
theorem Memory.read_writeList : ∀ (bs : List Byte) (a : Nat) (m : Memory) (b : Nat), Memory.wf m →
    a + bs.length ≤ Config.memSize →
    Memory.read (Memory.writeList bs a m) b =
      if a ≤ b ∧ b < a + bs.length then bs.getD (b - a) 0 else Memory.read m b
  | [], a, m, b, _, _ => by simp [Memory.writeList]
  | v :: bs, a, m, b, h, hl => by
    simp only [List.length_cons] at hl
    have h' := Memory.wf_write v h (a := a) (by omega)
    rw [Memory.writeList, Memory.read_writeList bs (a + 1) _ b h' (by omega)]
    by_cases hab : b = a
    · subst hab
      rw [if_neg (by omega), if_pos (by simp), Memory.read_write_same _ _ h.1]; simp
    · rw [Memory.read_write_ne _ hab]
      by_cases hin : a + 1 ≤ b ∧ b < a + 1 + bs.length
      · rw [if_pos hin, if_pos (by simp only [List.length_cons]; omega)]
        obtain ⟨k, hk⟩ : ∃ k, b - a = k + 1 := ⟨b - a - 1, by omega⟩
        rw [hk, show b - (a + 1) = k by omega]; simp
      · rw [if_neg hin, if_neg (by simp only [List.length_cons]; omega)]

/-! The same for the machine's own reads and writes, over 12-bit addresses. -/

theorem State.memRead_memWrite {s : State} (h : Memory.wf s.mem) (a c : Addr) (b : Byte) :
    (s.memWrite a b).memRead c = if c = a then b else s.memRead c := by
  unfold State.memRead
  rw [State.memWrite_mem]
  split
  · next hc => subst hc; exact Memory.read_write_same _ _ h.1
  · next hc => exact Memory.read_write_ne _ (by simpa [BitVec.toNat_inj] using hc)

theorem State.memRead_memWrite_ne (s : State) {a c : Addr} (b : Byte) (h : c ≠ a) :
    (s.memWrite a b).memRead c = s.memRead c := by
  unfold State.memRead
  rw [State.memWrite_mem]
  exact Memory.read_write_ne _ (by simpa [BitVec.toNat_inj] using h)

theorem State.memWrite_wf {s : State} (a : Addr) (b : Byte) (h : Memory.wf s.mem) : Memory.wf (s.memWrite a b).mem :=
  Memory.wf_write b h (show a.toNat < 4096 from a.isLt)

theorem State.storeBytes_wf {s : State} (f : Nat → Byte) (n : Nat) (h : Memory.wf s.mem) :
    Memory.wf (s.storeBytes f n).mem := by
  induction n with
  | zero => exact h
  | succ n ih => exact State.memWrite_wf _ _ ih

@[simp] theorem State.ea_toNat (s : State) (k : Nat) : (s.ea k).toNat = (s.i.toNat + k) % 4096 := by
  simp [State.ea]

/-- Distinct offsets below 4096 are distinct addresses (20_memory.md R58). -/
theorem State.ea_inj {s : State} {j k : Nat} (hj : j < 4096) (hk : k < 4096) (h : s.ea j = s.ea k) : j = k := by
  have := congrArg BitVec.toNat h
  simp only [State.ea_toNat] at this
  omega

theorem State.ea_congr {s t : State} (h : t.i = s.i) (k : Nat) : t.ea k = s.ea k := by simp [State.ea, h]

theorem State.memRead_congr {s t : State} (h : t.mem = s.mem) (a : Addr) : t.memRead a = s.memRead a := by
  simp [State.memRead, h]

/-- A byte outside the stored ones reads as before. -/
theorem State.memRead_storeBytes_ne (s : State) (f : Nat → Byte) {n : Nat} {a : Addr} (h : ∀ k < n, a ≠ s.ea k) :
    (s.storeBytes f n).memRead a = s.memRead a := by
  induction n with
  | zero => rfl
  | succ n ih =>
    rw [State.storeBytes, State.memRead_memWrite_ne _ _ (h n (by omega))]
    exact ih fun k hk => h k (by omega)

/-- The k-th stored byte reads as stored. -/
theorem State.memRead_storeBytes {s : State} (f : Nat → Byte) {n k : Nat} (h : Memory.wf s.mem) (hn : n ≤ 4096)
    (hk : k < n) : (s.storeBytes f n).memRead (s.ea k) = f k := by
  induction n with
  | zero => omega
  | succ n ih =>
    rw [State.storeBytes, State.memRead_memWrite (State.storeBytes_wf _ _ h)]
    by_cases hkn : k = n
    · subst hkn; simp
    · rw [if_neg fun e => hkn (State.ea_inj (by omega) (by omega) e)]
      exact ih (by omega) (by omega)

end Sys2Proof.Machine
end

