-- ==== Sys2Proof/Laws/Operands.lean ====
section
/-! SUPPORT. Register reads after every update, the register loop of FX65, flags, and the keypad (10_state.md R21, R22). -/

namespace Sys2Proof.Machine

theorem State.getV_congr {s t : State} (h : t.v = s.v) (r : Nibble) : t.getV r = s.getV r := by
  simp [State.getV, h]

theorem State.getV_setV (s : State) (r q : Nibble) (b : Byte) :
    (s.setV r b).getV q = if q = r then b else s.getV q := by
  simp [State.getV, Vector.getElem_set, BitVec.toNat_inj, eq_comm]

@[simp] theorem State.getV_setV_same (s : State) (r : Nibble) (b : Byte) : (s.setV r b).getV r = b := by
  simp [State.getV_setV]

theorem State.getV_setV_ne (s : State) {r q : Nibble} (b : Byte) (h : q ≠ r) : (s.setV r b).getV q = s.getV q := by
  simp [State.getV_setV, h]

@[simp] theorem State.getV_setPc (s : State) (t : Addr) (r : Nibble) : (s.setPc t).getV r = s.getV r := rfl
@[simp] theorem State.getV_setI (s : State) (w : Word) (r : Nibble) : (s.setI w).getV r = s.getV r := rfl
@[simp] theorem State.getV_setDt (s : State) (b : Byte) (r : Nibble) : (s.setDt b).getV r = s.getV r := rfl
@[simp] theorem State.getV_setSt (s : State) (b : Byte) (r : Nibble) : (s.setSt b).getV r = s.getV r := rfl
@[simp] theorem State.getV_advancePc (s : State) (r : Nibble) : s.advancePc.getV r = s.getV r := rfl
@[simp] theorem State.getV_takeRand (s : State) (r : Nibble) : s.takeRand.getV r = s.getV r := rfl
@[simp] theorem State.getV_memWrite (s : State) (a : Addr) (b : Byte) (r : Nibble) :
    (s.memWrite a b).getV r = s.getV r := rfl
@[simp] theorem State.getV_takeFault (s : State) (c : FaultCause) (p : Addr) (o : Option Word) (r : Nibble) :
    (s.takeFault c p o).getV r = s.getV r := rfl
@[simp] theorem State.getV_storeBytes (s : State) (f : Nat → Byte) (n : Nat) (r : Nibble) :
    (s.storeBytes f n).getV r = s.getV r := State.getV_congr (by simp) r
@[simp] theorem State.getV_bumpIndex (s : State) (x r : Nibble) : (s.bumpIndex x).getV r = s.getV r :=
  State.getV_congr (by simp) r
@[simp] theorem State.getV_skipIf (s : State) (b : Bool) (r : Nibble) : (s.skipIf b).getV r = s.getV r :=
  State.getV_congr (by simp) r

/-- VF is the flag; another register is untouched. -/
theorem State.getV_setFlag (s : State) (b : Bool) (r : Nibble) :
    (s.setFlag b).getV r = if r = vf then flagByte b else s.getV r := by
  simp [State.setFlag, State.getV_setV]

/-- VF holds the flag whatever X is; VX holds the result unless X = F (42_alu.md R147). -/
theorem State.getV_setResultAndFlag (s : State) (x r : Nibble) (b : Byte) (f : Bool) :
    (s.setResultAndFlag x b f).getV r = if r = vf then flagByte f else if r = x then b else s.getV r := by
  simp [State.setResultAndFlag, State.getV_setFlag, State.getV_setV]

/-- A register below the count is loaded with its byte, another is untouched. -/
theorem State.getV_loadRegs (s : State) {n : Nat} (hn : n ≤ 16) (r : Nibble) :
    (s.loadRegs n).getV r = if r.toNat < n then s.memRead (s.ea r.toNat) else s.getV r := by
  induction n with
  | zero => simp [State.loadRegs]
  | succ n ih =>
    have hr : r = BitVec.ofNat 4 n ↔ r.toNat = n := by
      rw [← BitVec.toNat_inj, BitVec.toNat_ofNat]; omega
    rw [State.loadRegs, State.getV_setV]
    by_cases h : r.toNat = n
    · rw [if_pos (hr.2 h), if_pos (by omega), h]
    · rw [if_neg (fun e => h (hr.1 e)), ih (by omega)]
      by_cases h' : r.toNat < n
      · rw [if_pos h', if_pos (by omega)]
      · rw [if_neg h', if_neg (by omega)]

/-! Memory and data addresses after an update that leaves them alone. -/

@[simp] theorem State.memRead_setV (s : State) (r : Nibble) (b : Byte) (a : Addr) :
    (s.setV r b).memRead a = s.memRead a := rfl
@[simp] theorem State.memRead_setPc (s : State) (t a : Addr) : (s.setPc t).memRead a = s.memRead a := rfl
@[simp] theorem State.memRead_setI (s : State) (w : Word) (a : Addr) : (s.setI w).memRead a = s.memRead a := rfl
@[simp] theorem State.memRead_advancePc (s : State) (a : Addr) : s.advancePc.memRead a = s.memRead a := rfl
@[simp] theorem State.memRead_takeFault (s : State) (c : FaultCause) (p : Addr) (o : Option Word) (a : Addr) :
    (s.takeFault c p o).memRead a = s.memRead a := rfl
@[simp] theorem State.memRead_loadRegs (s : State) (n : Nat) (a : Addr) : (s.loadRegs n).memRead a = s.memRead a :=
  State.memRead_congr (by simp) a
@[simp] theorem State.memRead_bumpIndex (s : State) (x : Nibble) (a : Addr) :
    (s.bumpIndex x).memRead a = s.memRead a := State.memRead_congr (by simp) a
@[simp] theorem State.memRead_skipIf (s : State) (b : Bool) (a : Addr) : (s.skipIf b).memRead a = s.memRead a :=
  State.memRead_congr (by simp) a
@[simp] theorem State.memRead_setDt (s : State) (b : Byte) (a : Addr) : (s.setDt b).memRead a = s.memRead a := rfl
@[simp] theorem State.memRead_setSt (s : State) (b : Byte) (a : Addr) : (s.setSt b).memRead a = s.memRead a := rfl
@[simp] theorem State.memRead_takeRand (s : State) (a : Addr) : s.takeRand.memRead a = s.memRead a := rfl
@[simp] theorem State.memRead_setFlag (s : State) (b : Bool) (a : Addr) : (s.setFlag b).memRead a = s.memRead a := rfl
@[simp] theorem State.memRead_setResultAndFlag (s : State) (x : Nibble) (b : Byte) (f : Bool) (a : Addr) :
    (s.setResultAndFlag x b f).memRead a = s.memRead a := rfl
@[simp] theorem State.ea_setV (s : State) (r : Nibble) (b : Byte) (k : Nat) : (s.setV r b).ea k = s.ea k := rfl
@[simp] theorem State.ea_setPc (s : State) (t : Addr) (k : Nat) : (s.setPc t).ea k = s.ea k := rfl
@[simp] theorem State.ea_memWrite (s : State) (a : Addr) (b : Byte) (k : Nat) : (s.memWrite a b).ea k = s.ea k := rfl
@[simp] theorem State.ea_advancePc (s : State) (k : Nat) : s.advancePc.ea k = s.ea k := rfl

/-! The flag values. -/

@[simp] theorem flagByte_true : flagByte true = 1 := rfl
@[simp] theorem flagByte_false : flagByte false = 0 := rfl

/-! The keypad. -/

theorem mem_keyIndices (k : Nibble) : k ∈ keyIndices := by revert k; decide

/-- The default selection answers nothing exactly in the empty set. -/
theorem lowestKey_eq_none (keys : KeySet) : lowestKey keys = none ↔ ∀ k, keyDown keys k = false := by
  simp [lowestKey, List.find?_eq_none, mem_keyIndices]

/-- What it answers is in the set. -/
theorem lowestKey_mem {keys : KeySet} {k : Nibble} (h : lowestKey keys = some k) : keyDown keys k = true :=
  List.find?_some h

theorem keyDown_setKey (s : State) (k j : Nibble) (b : Bool) :
    keyDown (s.setKey k b).key j = if j = k then b else keyDown s.key j := by
  simp [keyDown, Vector.getElem_set, BitVec.toNat_inj, eq_comm]

end Sys2Proof.Machine
end

