-- ==== Sys2Proof/Laws/Display.lean ====
section
/-! SUPPORT. The framebuffer: a cell read after a cell written, one sprite bit, row and sprite (44_display.md R171). -/

namespace Sys2Proof.Machine

theorem pixel_setPixel (fb : Framebuffer) {r c : Nat} (hr : r < 32) (hc : c < 64) (b : Bool) (r' c' : Nat) :
    pixel (setPixel fb r c b) r' c' = if r' = r ∧ c' = c then b else pixel fb r' c' := by
  unfold pixel setPixel
  by_cases h : r' < 32 ∧ c' < 64
  · simp only [hr, hc, h, and_self, dite_true, Vector.getElem_set]
    by_cases h1 : r = r'
    · subst h1
      by_cases h2 : c = c'
      · subst h2; simp
      · simp [Ne.symm h2, Vector.getElem_set_ne _ _ h2]
    · simp [h1, Ne.symm h1]
  · have : ¬ (r' = r ∧ c' = c) := by omega
    simp [h, this]

/-- One sprite bit toggles its cell where it is 1, and hits where the cell was lit. -/
theorem Canvas.plot_pixel (d : Canvas) {y x : Nat} (hy : y < 32) (hx : x < 64) (bit : Bool) (r c : Nat) :
    pixel (d.plot y x bit).fb r c = (pixel d.fb r c ^^ (bit && decide (r = y ∧ c = x))) := by
  unfold Canvas.plot
  cases bit
  · simp
  · rw [if_pos rfl]
    simp only [pixel_setPixel _ hy hx]
    by_cases h : r = y ∧ c = x
    · obtain ⟨rfl, rfl⟩ := h; simp
    · simp [h]

theorem Canvas.plot_hit (d : Canvas) (y x : Nat) (bit : Bool) : (d.plot y x bit).hit = (d.hit || (bit && pixel d.fb y x)) := by
  unfold Canvas.plot; cases bit <;> simp

/-- The first n columns of a sprite row change exactly the cells of row y under its 1 bits. -/
theorem Canvas.drawRow_pixel (d : Canvas) (b : Byte) {y : Nat} (hy : y < 32) (x0 : Nat) (n : Nat) (r c : Nat) :
    pixel (d.drawRow b y x0 n).fb r c =
      (pixel d.fb r c ^^ decide (r = y ∧ x0 ≤ c ∧ c < x0 + n ∧ c < 64 ∧ spriteBit b (c - x0) = true)) := by
  induction n with
  | zero =>
    have : ¬ (r = y ∧ x0 ≤ c ∧ c < x0 + 0 ∧ c < 64 ∧ spriteBit b (c - x0) = true) := by omega
    simp only [Canvas.drawRow, this, decide_false, Bool.xor_false]
  | succ n ih =>
    unfold Canvas.drawRow
    split
    · next hx =>
      rw [ih]; congr 2; apply propext
      constructor <;> rintro ⟨h1, h2, h3, h4, h5⟩ <;> exact ⟨h1, h2, by omega, h4, h5⟩
    · next hx =>
      rw [Canvas.plot_pixel _ hy (by omega), ih, Bool.xor_assoc]
      congr 1
      by_cases hc : r = y ∧ c = x0 + n
      · obtain ⟨rfl, rfl⟩ := hc
        simp [show x0 + n < 64 by omega]
      · simp only [hc, decide_false, Bool.and_false, Bool.xor_false, decide_eq_decide]
        constructor <;> rintro ⟨h1, h2, h3, h4, h5⟩ <;> exact ⟨h1, h2, by omega, h4, h5⟩

/-- The first n columns of a sprite row hit exactly where one of its 1 bits lies on a lit cell. -/
theorem Canvas.drawRow_hit (d : Canvas) (b : Byte) {y : Nat} (hy : y < 32) (x0 : Nat) (n : Nat) :
    (d.drawRow b y x0 n).hit = true ↔
      d.hit = true ∨ ∃ k < n, x0 + k < 64 ∧ spriteBit b k = true ∧ pixel d.fb y (x0 + k) = true := by
  induction n with
  | zero => simp [Canvas.drawRow]
  | succ n ih =>
    unfold Canvas.drawRow
    split
    · next hx =>
      rw [ih]; refine or_congr_right ⟨?_, ?_⟩
      · rintro ⟨k, hk, h⟩; exact ⟨k, by omega, h⟩
      · rintro ⟨k, hk, h⟩; exact ⟨k, by omega, h⟩
    · next hx =>
      have hno : pixel (d.drawRow b y x0 n).fb y (x0 + n) = pixel d.fb y (x0 + n) := by
        rw [Canvas.drawRow_pixel _ _ hy]; simp
      rw [Canvas.plot_hit, Bool.or_eq_true, ih, Bool.and_eq_true, hno, or_assoc]
      refine or_congr_right ⟨?_, ?_⟩
      · rintro (⟨k, hk, h⟩ | ⟨h1, h2⟩)
        · exact ⟨k, by omega, h⟩
        · exact ⟨n, by omega, by omega, h1, h2⟩
      · rintro ⟨k, hk, h1, h2, h3⟩
        by_cases hkn : k = n
        · subst hkn; exact .inr ⟨h2, h3⟩
        · exact .inl ⟨k, by omega, h1, h2, h3⟩

/-- The first n rows of a sprite change exactly the screen cells under its 1 bits (44_display.md R171, R173). -/
theorem Canvas.drawRows_pixel (d : Canvas) (rows : Nat → Byte) (y0 x0 n r c : Nat) :
    pixel (d.drawRows rows y0 x0 n).fb r c = (pixel d.fb r c ^^
      decide ((y0 ≤ r ∧ r < y0 + n ∧ r < 32) ∧ (x0 ≤ c ∧ c < x0 + 8 ∧ c < 64 ∧
        spriteBit (rows (r - y0)) (c - x0) = true))) := by
  induction n with
  | zero =>
    have : ¬ (y0 ≤ r ∧ r < y0 + 0 ∧ r < 32) := by omega
    simp only [Canvas.drawRows, this, false_and, decide_false, Bool.xor_false]
  | succ n ih =>
    unfold Canvas.drawRows
    split
    · next hy =>
      have h1 : (y0 ≤ r ∧ r < y0 + (n + 1) ∧ r < 32) = (y0 ≤ r ∧ r < y0 + n ∧ r < 32) := propext (by omega)
      rw [ih]; simp only [h1]
    · next hy =>
      rw [Canvas.drawRow_pixel _ _ (by omega), ih, Bool.xor_assoc]
      congr 1
      by_cases hr : r = y0 + n
      · subst hr
        simp [show y0 + n < 32 by omega]
      · have h1 : (y0 ≤ r ∧ r < y0 + (n + 1) ∧ r < 32) = (y0 ≤ r ∧ r < y0 + n ∧ r < 32) := propext (by omega)
        simp only [hr, h1, false_and, decide_false, Bool.xor_false]

/-- They hit exactly where one of its 1 bits lies on a cell that was lit before the draw. -/
theorem Canvas.drawRows_hit (d : Canvas) (rows : Nat → Byte) (y0 x0 n : Nat) :
    (d.drawRows rows y0 x0 n).hit = true ↔ d.hit = true ∨ ∃ j < n, y0 + j < 32 ∧ ∃ k < 8, x0 + k < 64 ∧
      spriteBit (rows j) k = true ∧ pixel d.fb (y0 + j) (x0 + k) = true := by
  induction n with
  | zero => simp [Canvas.drawRows]
  | succ n ih =>
    unfold Canvas.drawRows
    split
    · next hy =>
      rw [ih]; refine or_congr_right ⟨?_, ?_⟩
      · rintro ⟨j, hj, h⟩; exact ⟨j, by omega, h⟩
      · rintro ⟨j, hj, h⟩; exact ⟨j, by omega, h⟩
    · next hy =>
      have hno : ∀ c, pixel (d.drawRows rows y0 x0 n).fb (y0 + n) c = pixel d.fb (y0 + n) c := fun c => by
        rw [Canvas.drawRows_pixel]; simp
      rw [Canvas.drawRow_hit _ _ (by omega), ih, or_assoc]
      refine or_congr_right ⟨?_, ?_⟩
      · rintro (⟨j, hj, h⟩ | ⟨k, hk, h1, h2, h3⟩)
        · exact ⟨j, by omega, h⟩
        · exact ⟨n, by omega, by omega, k, hk, h1, h2, by rwa [hno] at h3⟩
      · rintro ⟨j, hj, h1, k, hk, h2, h3, h4⟩
        by_cases hjn : j = n
        · subst hjn; exact .inr ⟨k, hk, h2, h3, by rwa [hno]⟩
        · exact .inl ⟨j, by omega, h1, k, hk, h2, h3, h4⟩

/-- Two framebuffers with the same cells are the same. -/
theorem Framebuffer.ext_pixel {a b : Framebuffer} (h : ∀ r < 32, ∀ c < 64, pixel a r c = pixel b r c) : a = b := by
  apply Vector.ext; intro r hr
  apply Vector.ext; intro c hc
  simpa [pixel, hr, hc] using h r hr c hc

@[simp] theorem pixel_clear (r c : Nat) : pixel (Vector.replicate 32 (Vector.replicate 64 false)) r c = false := by
  simp [pixel]

/-- The output `display` is the cell. -/
theorem State.display_eq_pixel (s : State) (r : BitVec 5) (c : BitVec 6) : s.display r c = pixel s.fb r.toNat c.toNat := by
  simp [State.display, pixel, r.isLt, c.isLt]

end Sys2Proof.Machine
end

