-- ==== Sys2Proof/Laws/Encoding.lean ====
section
/-! SUPPORT. The fields of a word built from its parts, and a word rebuilt from its fields (30_encoding.md R71, R72). -/

namespace Sys2Proof

@[simp] theorem fieldC_wordXYN (c x y n : Nibble) : fieldC (wordXYN c x y n) = c := by
  ext i hi; simp [fieldC, wordXYN]; interval_cases i <;> simp
@[simp] theorem fieldX_wordXYN (c x y n : Nibble) : fieldX (wordXYN c x y n) = x := by
  ext i hi; simp [fieldX, wordXYN]; interval_cases i <;> simp
@[simp] theorem fieldY_wordXYN (c x y n : Nibble) : fieldY (wordXYN c x y n) = y := by
  ext i hi; simp [fieldY, wordXYN]; interval_cases i <;> simp
@[simp] theorem fieldN_wordXYN (c x y n : Nibble) : fieldN (wordXYN c x y n) = n := by
  ext i hi; simp [fieldN, wordXYN]; interval_cases i <;> simp
@[simp] theorem fieldC_wordXNN (c x : Nibble) (nn : Byte) : fieldC (wordXNN c x nn) = c := by
  ext i hi; simp [fieldC, wordXNN]; interval_cases i <;> simp
@[simp] theorem fieldX_wordXNN (c x : Nibble) (nn : Byte) : fieldX (wordXNN c x nn) = x := by
  ext i hi; simp [fieldX, wordXNN]; interval_cases i <;> simp
@[simp] theorem fieldNN_wordXNN (c x : Nibble) (nn : Byte) : fieldNN (wordXNN c x nn) = nn := by
  ext i hi; simp [fieldNN, wordXNN]; interval_cases i <;> simp
@[simp] theorem fieldC_wordNNN (c : Nibble) (nnn : Addr) : fieldC (wordNNN c nnn) = c := by
  ext i hi; simp [fieldC, wordNNN]; interval_cases i <;> simp
@[simp] theorem fieldNNN_wordNNN (c : Nibble) (nnn : Addr) : fieldNNN (wordNNN c nnn) = nnn := by
  ext i hi; simp [fieldNNN, wordNNN]; interval_cases i <;> simp

/-- A word is its four nibbles. -/
theorem wordXYN_fields (w : Word) : wordXYN (fieldC w) (fieldX w) (fieldY w) (fieldN w) = w := by
  ext i hi; simp [wordXYN, fieldC, fieldX, fieldY, fieldN]; interval_cases i <;> simp

/-- A word is its category, X and NN. -/
theorem wordXNN_fields (w : Word) : wordXNN (fieldC w) (fieldX w) (fieldNN w) = w := by
  ext i hi; simp [wordXNN, fieldC, fieldX, fieldNN]; interval_cases i <;> simp

/-- A word is its category and NNN. -/
theorem wordNNN_fields (w : Word) : wordNNN (fieldC w) (fieldNNN w) = w := by
  ext i hi; simp [wordNNN, fieldC, fieldNNN]; interval_cases i <;> simp

/-- What each mask of the opcode table leaves of a word (30_encoding.md R76). -/
theorem and_top_mask (w : Word) : w &&& 0xF000 = wordNNN (fieldC w) 0 := by
  ext i hi; simp [wordNNN, fieldC]; interval_cases i <;> simp

theorem and_xy_mask (w : Word) : w &&& 0xF00F = wordXYN (fieldC w) 0 0 (fieldN w) := by
  ext i hi; simp [wordXYN, fieldC, fieldN]; interval_cases i <;> simp

theorem and_x_mask (w : Word) : w &&& 0xF0FF = wordXNN (fieldC w) 0 (fieldNN w) := by
  ext i hi; simp [wordXNN, fieldC, fieldNN]; interval_cases i <;> simp

/-- Words of one format are equal exactly when their parts are. -/
theorem wordXYN_inj {c x y n c' x' y' n' : Nibble} :
    wordXYN c x y n = wordXYN c' x' y' n' ↔ c = c' ∧ x = x' ∧ y = y' ∧ n = n' := by
  refine ⟨fun h => ⟨?_, ?_, ?_, ?_⟩, by rintro ⟨rfl, rfl, rfl, rfl⟩; rfl⟩
  · simpa using congrArg fieldC h
  · simpa using congrArg fieldX h
  · simpa using congrArg fieldY h
  · simpa using congrArg fieldN h

theorem wordXNN_inj {c x c' x' : Nibble} {nn nn' : Byte} :
    wordXNN c x nn = wordXNN c' x' nn' ↔ c = c' ∧ x = x' ∧ nn = nn' := by
  refine ⟨fun h => ⟨?_, ?_, ?_⟩, by rintro ⟨rfl, rfl, rfl⟩; rfl⟩
  · simpa using congrArg fieldC h
  · simpa using congrArg fieldX h
  · simpa using congrArg fieldNN h

theorem wordNNN_inj {c c' : Nibble} {nnn nnn' : Addr} : wordNNN c nnn = wordNNN c' nnn' ↔ c = c' ∧ nnn = nnn' := by
  refine ⟨fun h => ⟨?_, ?_⟩, by rintro ⟨rfl, rfl⟩; rfl⟩
  · simpa using congrArg fieldC h
  · simpa using congrArg fieldNNN h

/-- A word is its two bytes, high byte first (20_memory.md R53). -/
@[simp] theorem wordOfBytes_hi_lo (w : Word) : wordOfBytes (hiByte w) (loByte w) = w := by
  ext i hi; simp [wordOfBytes, hiByte, loByte]; interval_cases i <;> simp

@[simp] theorem hiByte_wordOfBytes (a b : Byte) : hiByte (wordOfBytes a b) = a := by
  ext i hi; simp [hiByte, wordOfBytes]; interval_cases i <;> simp
@[simp] theorem loByte_wordOfBytes (a b : Byte) : loByte (wordOfBytes a b) = b := by
  ext i hi; simp [loByte, wordOfBytes]; interval_cases i <;> simp

end Sys2Proof
end

