-- ==== Sys2Proof/Laws/Step.lean ====
section
/-! SUPPORT. What the fetch, a STEP and the two stack instructions can do, each said once (40_step_cycle.md R95). -/

namespace Sys2Proof.Machine

/-- Fetch and decode come to one of four things. -/
theorem State.fetchDecode_cases (s : State) :
    (s.runState = .halted ∧ s.fetchDecode = .idle) ∨
    (s.runState = .run ∧ s.fetch16 s.pc = none ∧
      s.fetchDecode = .trapped (s.takeFault .fetchOutOfRange s.pc none)) ∨
    (∃ w, s.runState = .run ∧ s.fetch16 s.pc = some w ∧ decodeWord w = none ∧
      s.fetchDecode = .trapped (s.takeFault .unimplementedOpcode s.pc (some w))) ∨
    (∃ w i, s.runState = .run ∧ s.fetch16 s.pc = some w ∧ decodeWord w = some i ∧
      s.fetchDecode = .instr i s.advancePc) := by
  unfold State.fetchDecode
  cases hr : s.runState
  · cases hf : s.fetch16 s.pc with
    | none => simp
    | some w => cases hd : decodeWord w <;> simp [hd]
  · simp

/-- A STEP does one of four things. -/
theorem step_cases (s : State) :
    (s.runState = .halted ∧ step s = .next s) ∨
    (s.runState = .run ∧ s.fetch16 s.pc = none ∧ step s = .next (s.takeFault .fetchOutOfRange s.pc none)) ∨
    (∃ w, s.runState = .run ∧ s.fetch16 s.pc = some w ∧ decodeWord w = none ∧
      step s = .next (s.takeFault .unimplementedOpcode s.pc (some w))) ∨
    (∃ w i, s.runState = .run ∧ s.fetch16 s.pc = some w ∧ decodeWord w = some i ∧ step s = exec i s.advancePc) := by
  unfold step
  rcases s.fetchDecode_cases with ⟨h, e⟩ | ⟨h, h1, e⟩ | ⟨w, h, h1, h2, e⟩ | ⟨w, i, h, h1, h2, e⟩ <;> rw [e]
  · exact .inl ⟨h, rfl⟩
  · exact .inr (.inl ⟨h, h1, rfl⟩)
  · exact .inr (.inr (.inl ⟨w, h, h1, h2, rfl⟩))
  · exact .inr (.inr (.inr ⟨w, i, h, h1, h2, rfl⟩))

/-- There is no word to fetch exactly at 0xFFF (20_memory.md R53). -/
theorem State.fetch16_eq_none (s : State) (p : Addr) : s.fetch16 p = none ↔ p = 0xFFF := by
  unfold State.fetch16; split <;> simp_all

theorem State.fetch16_of_ne (s : State) {p : Addr} (h : p ≠ 0xFFF) :
    s.fetch16 p = some (wordOfBytes (s.memRead p) (s.memRead (p + 1))) := if_neg h

/-- Two states with the same memory fetch the same words. -/
theorem State.fetch16_congr {s t : State} (h : t.mem = s.mem) (p : Addr) : t.fetch16 p = s.fetch16 p := by
  simp [State.fetch16, State.memRead, h]

/-- 00EE underflows, pops or meets a stack pointer out of its range. -/
theorem exec00EE_cases (s : State) :
    (s.sp = 0 ∧ exec00EE s = .next (s.takeExecFault .stackUnderflow .op00EE)) ∨
    (∃ h : (s.sp - 1).toNat < 16, s.sp ≠ 0 ∧
      exec00EE s = .next { s with sp := s.sp - 1, pc := s.stack[(s.sp - 1).toNat] }) ∨
    (16 < s.sp.toNat ∧ exec00EE s = .fault .stackPointerOutOfRange) := by
  unfold exec00EE
  split
  · next h => exact .inl ⟨h, rfl⟩
  · next h =>
    split
    · next h' => exact .inr (.inl ⟨h', h, rfl⟩)
    · next h' => exact .inr (.inr ⟨by bv_omega, rfl⟩)

/-- 2NNN overflows, pushes or meets a stack pointer out of its range. -/
theorem exec2NNN_cases (nnn : Addr) (s : State) :
    (s.sp = 16 ∧ exec2NNN nnn s = .next (s.takeExecFault .stackOverflow (.op2NNN nnn))) ∨
    (∃ h : s.sp.toNat < 16,
      exec2NNN nnn s = .next { s with stack := s.stack.set s.sp.toNat s.pc h, sp := s.sp + 1, pc := nnn }) ∨
    (16 < s.sp.toNat ∧ exec2NNN nnn s = .fault .stackPointerOutOfRange) := by
  unfold exec2NNN
  split
  · next h => exact .inl ⟨h, rfl⟩
  · next h =>
    split
    · next h' => exact .inr (.inl ⟨h', rfl⟩)
    · next h' => exact .inr (.inr ⟨by bv_omega, rfl⟩)

end Sys2Proof.Machine
end

