-- ==== Sys2Proof/Laws/Environment.lean ====
section
/-! SUPPORT. The environment's operations: what HALTED does to them, sequences of them, and STEP with the random input as an
argument (40_step_cycle.md R90, R94, R105). -/

namespace Sys2Proof.Machine

theorem State.whenRun_run {s : State} (t : State) (h : s.runState = .run) : s.whenRun t = t := by
  simp [State.whenRun, h]

theorem State.whenRun_halted {s : State} (t : State) (h : s.runState = .halted) : s.whenRun t = s := by
  simp [State.whenRun, h]

/-- LOAD_ROM keeps the canonical form: an accepted image ends at or below 0xFFF. -/
theorem State.loadRom_wf {s : State} (rom : List Byte) (h : Memory.wf s.mem) : Memory.wf (s.loadRom rom).mem := by
  unfold State.loadRom State.whenRun
  cases s.runState
  · show Memory.wf (State.mem (if rom.length ≤ 3584 then _ else s))
    split
    · next hl => exact Memory.wf_writeList h (show 0x200 + rom.length ≤ 4096 by omega)
    · exact h
  · exact h

/-- RESET with a FONT of 80 bytes leaves memory in canonical form. -/
theorem State.resetWith_wf {p : Params} (s : State) (h : fontFits p.font = true) : Memory.wf (s.resetWith p).mem := by
  have hl : p.font.length = 80 := by simpa [fontFits] using h
  exact Memory.wf_writeList Memory.wf_reset (show 0x050 + p.font.length ≤ 4096 by omega)

/-- So does storing an instruction word at PC. -/
theorem State.placeWord_wf {s : State} (w : Word) (h : Memory.wf s.mem) : Memory.wf (s.placeWord w).mem := by
  unfold State.placeWord
  split
  · exact h
  · exact State.memWrite_wf _ _ (State.memWrite_wf _ _ h)

/-- An operation other than STEP answers a next state. -/
theorem applyOp_next {op : Op} (h : ∀ rand, op ≠ .step rand) (s : State) : ∃ t, applyOp op s = .next t := by
  cases op <;> first | exact absurd rfl (h _) | exact ⟨_, rfl⟩

/-! STEP with the random input as an argument (10_state.md R35, 40_step_cycle.md R105). -/

/-- No instruction but CXNN reads the random input. -/
theorem execWith_of_ne {i : Instr} (h : ∀ x nn, i ≠ .opCXNN x nn) (rand : Byte) (s : State) :
    execWith rand i s = exec i s := by
  cases i <;> first | rfl | exact absurd rfl (h _ _)

/-- CXNN of `exec` is CXNN with the free value as its argument, and one more sample counted. -/
theorem exec_CXNN_eq (x : Nibble) (nn : Byte) (s : State) :
    exec (.opCXNN x nn) s = execWith s.randByte (.opCXNN x nn) s.takeRand := rfl

/-- A STEP with the random input as an argument does one of four things. -/
theorem stepWith_cases (rand : Byte) (s : State) :
    (s.runState = .halted ∧ stepWith rand s = .next s) ∨
    (s.runState = .run ∧ s.fetch16 s.pc = none ∧
      stepWith rand s = .next (s.takeFault .fetchOutOfRange s.pc none)) ∨
    (∃ w, s.runState = .run ∧ s.fetch16 s.pc = some w ∧ decodeWord w = none ∧
      stepWith rand s = .next (s.takeFault .unimplementedOpcode s.pc (some w))) ∨
    (∃ w i, s.runState = .run ∧ s.fetch16 s.pc = some w ∧ decodeWord w = some i ∧
      stepWith rand s = execWith rand i s.advancePc) := by
  unfold stepWith
  rcases s.fetchDecode_cases with ⟨h, e⟩ | ⟨h, h1, e⟩ | ⟨w, h, h1, h2, e⟩ | ⟨w, i, h, h1, h2, e⟩ <;> rw [e]
  · exact .inl ⟨h, rfl⟩
  · exact .inr (.inl ⟨h, h1, rfl⟩)
  · exact .inr (.inr (.inl ⟨w, h, h1, h2, rfl⟩))
  · exact .inr (.inr (.inr ⟨w, i, h, h1, h2, rfl⟩))

/-- Running two sequences one after the other. -/
theorem runOps_append (a b : List Op) (s : State) :
    runOps (a ++ b) s = match runOps a s with
      | .next t => runOps b t
      | .fault r => .fault r
      | .refused r => .refused r := by
  induction a generalizing s with
  | nil => rfl
  | cons op a ih =>
    simp only [List.cons_append, runOps]
    cases applyOp op s <;> simp [ih]

/-- Running one operation and then the rest. -/
theorem runOps_cons_next {op : Op} {ops : List Op} {s t : State} (h : applyOp op s = .next t) :
    runOps (op :: ops) s = runOps ops t := by simp [runOps, h]

end Sys2Proof.Machine
end

