-- ==== Sys2Proof/Laws/PerInstr.lean ====
section
/-! SUPPORT. Facts about every instruction as syntax, one lemma per constructor. -/

namespace Sys2Proof.Laws.MatchesRow

/-- The instruction's word matches its own row of the opcode table: the fixed digits of its pattern are those of the table
(30_encoding.md R74, R76). -/
def Statement (i : Instr) : Prop := ∃ row ∈ opcodeRows, row.pattern = i.pattern ∧ encode i &&& row.mask = row.bits

/-- The fixed digits of format XY survive the operands. -/
theorem wordXYN_and_mask (c x y n : Nibble) : wordXYN c x y n &&& 0xF00F = wordXYN c 0 0 n := by
  ext i hi; simp [wordXYN]; interval_cases i <;> simp

/-- The fixed digit of formats NNN, XNN and XYN survives the operands. -/
theorem wordXYN_and_top (c x y n : Nibble) : wordXYN c x y n &&& 0xF000 = wordXYN c 0 0 0 := by
  ext i hi; simp [wordXYN]; interval_cases i <;> simp
theorem wordXNN_and_top (c x : Nibble) (nn : Byte) : wordXNN c x nn &&& 0xF000 = wordXNN c 0 0 := by
  ext i hi; simp [wordXNN]; interval_cases i <;> simp
theorem wordNNN_and_top (c : Nibble) (nnn : Addr) : wordNNN c nnn &&& 0xF000 = wordNNN c 0 := by
  ext i hi; simp [wordNNN]; interval_cases i <;> simp

/-- The fixed digits of format X survive the operand. -/
theorem wordXNN_and_mask (c x : Nibble) (nn : Byte) : wordXNN c x nn &&& 0xF0FF = wordXNN c 0 nn := by
  ext i hi; simp [wordXNN]; interval_cases i <;> simp

theorem op00E0 : Statement (.op00E0) :=
  ⟨⟨"00E0", 0x00E0, 0xFFFF⟩, by decide, rfl, by decide⟩
theorem op00EE : Statement (.op00EE) :=
  ⟨⟨"00EE", 0x00EE, 0xFFFF⟩, by decide, rfl, by decide⟩
theorem op1NNN (nnn : Addr) : Statement (.op1NNN nnn) :=
  ⟨⟨"1NNN", 0x1000, 0xF000⟩, by decide, rfl, wordNNN_and_top _ _⟩
theorem op2NNN (nnn : Addr) : Statement (.op2NNN nnn) :=
  ⟨⟨"2NNN", 0x2000, 0xF000⟩, by decide, rfl, wordNNN_and_top _ _⟩
theorem op3XNN (x : Nibble) (nn : Byte) : Statement (.op3XNN x nn) :=
  ⟨⟨"3XNN", 0x3000, 0xF000⟩, by decide, rfl, wordXNN_and_top _ _ _⟩
theorem op4XNN (x : Nibble) (nn : Byte) : Statement (.op4XNN x nn) :=
  ⟨⟨"4XNN", 0x4000, 0xF000⟩, by decide, rfl, wordXNN_and_top _ _ _⟩
theorem op5XY0 (x y : Nibble) : Statement (.op5XY0 x y) :=
  ⟨⟨"5XY0", 0x5000, 0xF00F⟩, by decide, rfl, wordXYN_and_mask _ _ _ _⟩
theorem op6XNN (x : Nibble) (nn : Byte) : Statement (.op6XNN x nn) :=
  ⟨⟨"6XNN", 0x6000, 0xF000⟩, by decide, rfl, wordXNN_and_top _ _ _⟩
theorem op7XNN (x : Nibble) (nn : Byte) : Statement (.op7XNN x nn) :=
  ⟨⟨"7XNN", 0x7000, 0xF000⟩, by decide, rfl, wordXNN_and_top _ _ _⟩
theorem op8XY0 (x y : Nibble) : Statement (.op8XY0 x y) :=
  ⟨⟨"8XY0", 0x8000, 0xF00F⟩, by decide, rfl, wordXYN_and_mask _ _ _ _⟩
theorem op8XY1 (x y : Nibble) : Statement (.op8XY1 x y) :=
  ⟨⟨"8XY1", 0x8001, 0xF00F⟩, by decide, rfl, wordXYN_and_mask _ _ _ _⟩
theorem op8XY2 (x y : Nibble) : Statement (.op8XY2 x y) :=
  ⟨⟨"8XY2", 0x8002, 0xF00F⟩, by decide, rfl, wordXYN_and_mask _ _ _ _⟩
theorem op8XY3 (x y : Nibble) : Statement (.op8XY3 x y) :=
  ⟨⟨"8XY3", 0x8003, 0xF00F⟩, by decide, rfl, wordXYN_and_mask _ _ _ _⟩
theorem op8XY4 (x y : Nibble) : Statement (.op8XY4 x y) :=
  ⟨⟨"8XY4", 0x8004, 0xF00F⟩, by decide, rfl, wordXYN_and_mask _ _ _ _⟩
theorem op8XY5 (x y : Nibble) : Statement (.op8XY5 x y) :=
  ⟨⟨"8XY5", 0x8005, 0xF00F⟩, by decide, rfl, wordXYN_and_mask _ _ _ _⟩
theorem op8XY6 (x y : Nibble) : Statement (.op8XY6 x y) :=
  ⟨⟨"8XY6", 0x8006, 0xF00F⟩, by decide, rfl, wordXYN_and_mask _ _ _ _⟩
theorem op8XY7 (x y : Nibble) : Statement (.op8XY7 x y) :=
  ⟨⟨"8XY7", 0x8007, 0xF00F⟩, by decide, rfl, wordXYN_and_mask _ _ _ _⟩
theorem op8XYE (x y : Nibble) : Statement (.op8XYE x y) :=
  ⟨⟨"8XYE", 0x800E, 0xF00F⟩, by decide, rfl, wordXYN_and_mask _ _ _ _⟩
theorem op9XY0 (x y : Nibble) : Statement (.op9XY0 x y) :=
  ⟨⟨"9XY0", 0x9000, 0xF00F⟩, by decide, rfl, wordXYN_and_mask _ _ _ _⟩
theorem opANNN (nnn : Addr) : Statement (.opANNN nnn) :=
  ⟨⟨"ANNN", 0xA000, 0xF000⟩, by decide, rfl, wordNNN_and_top _ _⟩
theorem opBNNN (nnn : Addr) : Statement (.opBNNN nnn) :=
  ⟨⟨"BNNN", 0xB000, 0xF000⟩, by decide, rfl, wordNNN_and_top _ _⟩
theorem opCXNN (x : Nibble) (nn : Byte) : Statement (.opCXNN x nn) :=
  ⟨⟨"CXNN", 0xC000, 0xF000⟩, by decide, rfl, wordXNN_and_top _ _ _⟩
theorem opDXYN (x y n : Nibble) : Statement (.opDXYN x y n) :=
  ⟨⟨"DXYN", 0xD000, 0xF000⟩, by decide, rfl, wordXYN_and_top _ _ _ _⟩
theorem opEX9E (x : Nibble) : Statement (.opEX9E x) :=
  ⟨⟨"EX9E", 0xE09E, 0xF0FF⟩, by decide, rfl, wordXNN_and_mask _ _ _⟩
theorem opEXA1 (x : Nibble) : Statement (.opEXA1 x) :=
  ⟨⟨"EXA1", 0xE0A1, 0xF0FF⟩, by decide, rfl, wordXNN_and_mask _ _ _⟩
theorem opFX07 (x : Nibble) : Statement (.opFX07 x) :=
  ⟨⟨"FX07", 0xF007, 0xF0FF⟩, by decide, rfl, wordXNN_and_mask _ _ _⟩
theorem opFX0A (x : Nibble) : Statement (.opFX0A x) :=
  ⟨⟨"FX0A", 0xF00A, 0xF0FF⟩, by decide, rfl, wordXNN_and_mask _ _ _⟩
theorem opFX15 (x : Nibble) : Statement (.opFX15 x) :=
  ⟨⟨"FX15", 0xF015, 0xF0FF⟩, by decide, rfl, wordXNN_and_mask _ _ _⟩
theorem opFX18 (x : Nibble) : Statement (.opFX18 x) :=
  ⟨⟨"FX18", 0xF018, 0xF0FF⟩, by decide, rfl, wordXNN_and_mask _ _ _⟩
theorem opFX1E (x : Nibble) : Statement (.opFX1E x) :=
  ⟨⟨"FX1E", 0xF01E, 0xF0FF⟩, by decide, rfl, wordXNN_and_mask _ _ _⟩
theorem opFX29 (x : Nibble) : Statement (.opFX29 x) :=
  ⟨⟨"FX29", 0xF029, 0xF0FF⟩, by decide, rfl, wordXNN_and_mask _ _ _⟩
theorem opFX33 (x : Nibble) : Statement (.opFX33 x) :=
  ⟨⟨"FX33", 0xF033, 0xF0FF⟩, by decide, rfl, wordXNN_and_mask _ _ _⟩
theorem opFX55 (x : Nibble) : Statement (.opFX55 x) :=
  ⟨⟨"FX55", 0xF055, 0xF0FF⟩, by decide, rfl, wordXNN_and_mask _ _ _⟩
theorem opFX65 (x : Nibble) : Statement (.opFX65 x) :=
  ⟨⟨"FX65", 0xF065, 0xF0FF⟩, by decide, rfl, wordXNN_and_mask _ _ _⟩

end Sys2Proof.Laws.MatchesRow
end

