-- ==== Sys2Proof/Tests/Slice0.lean ====
section
/-! SUPPORT. Tests: decoding against words written out from 30_encoding.md R76, the checks of WellFormed, one STEP on
small states against spec/95_test_vectors.md (the vector is named beside each), and a witness for the hypotheses of
every statement. -/

namespace Sys2Proof.Tests
open Sys2Proof.Machine

/-! ## Helpers -/

/-- The state after one STEP with the word placed at PC. -/
def after (s : State) (w : Nat) : Option State :=
  match step (s.withFetchWord 16 w) with
  | .next t => some t
  | _ => none

/-- The STEP answers a next state that passes the check. -/
def runs (s : State) (w : Nat) (p : State → Bool) : Bool := (after s w).any p

/-- Memory with bytes listed from an address, over the reset contents. -/
def put (s : State) (a : Nat) (bs : List Byte) : State := { s with mem := Memory.writeList bs a s.mem }

/-- The reset state, and the reset state under one quirk. -/
abbrev r0 : State := State.reset
def rShift : State := { r0 with quirks := ⟨true, false, false, false⟩ }
def rIncr : State := { r0 with quirks := ⟨false, true, false, false⟩ }
def rJump : State := { r0 with quirks := ⟨false, false, true, false⟩ }
def rAddI : State := { r0 with quirks := ⟨false, false, false, true⟩ }

/-- The result is this next state. -/
def isNext (r : Result) (t : State) : Bool :=
  match r with
  | .next u => u == t
  | _ => false

theorem next_of {r : Result} {t : State} (h : isNext r t = true) : r = .next t := by
  cases r <;> simp_all [isNext]

/-- The number of lit cells. -/
def litCount (s : State) : Nat := s.fb.toList.foldl (fun n row => n + row.toList.countP id) 0

/-- The reset state with a cell lit. -/
def lit (s : State) (r c : Nat) : State := { s with fb := setPixel s.fb r c true }

/-- The reset state holding an instruction word at 0x200. -/
def holding (w : Nat) : State := r0.withFetchWord 16 w


/-! ## Decoding: one word per row of R76, bits 15..0 as the row's pattern lays them out -/

theorem test_decode_00E0 : decodeTableWord 16 0b0000000011100000 = some (.op00E0) := by decide
theorem test_decode_00EE : decodeTableWord 16 0b0000000011101110 = some (.op00EE) := by decide
theorem test_decode_1NNN : decodeTableWord 16 0b0001101010111100 = some (.op1NNN 0xABC) := by decide
theorem test_decode_2NNN : decodeTableWord 16 0b0010101010111100 = some (.op2NNN 0xABC) := by decide
theorem test_decode_3XNN : decodeTableWord 16 0b0011001100101010 = some (.op3XNN 0x3 0x2A) := by decide
theorem test_decode_4XNN : decodeTableWord 16 0b0100001100101010 = some (.op4XNN 0x3 0x2A) := by decide
theorem test_decode_5XY0 : decodeTableWord 16 0b0101000100100000 = some (.op5XY0 0x1 0x2) := by decide
theorem test_decode_6XNN : decodeTableWord 16 0b0110101000101111 = some (.op6XNN 0xA 0x2F) := by decide
theorem test_decode_7XNN : decodeTableWord 16 0b0111000111111111 = some (.op7XNN 0x1 0xFF) := by decide
theorem test_decode_8XY0 : decodeTableWord 16 0b1000101010110000 = some (.op8XY0 0xA 0xB) := by decide
theorem test_decode_8XY1 : decodeTableWord 16 0b1000101010110001 = some (.op8XY1 0xA 0xB) := by decide
theorem test_decode_8XY2 : decodeTableWord 16 0b1000101010110010 = some (.op8XY2 0xA 0xB) := by decide
theorem test_decode_8XY3 : decodeTableWord 16 0b1000101010110011 = some (.op8XY3 0xA 0xB) := by decide
theorem test_decode_8XY4 : decodeTableWord 16 0b1000101010110100 = some (.op8XY4 0xA 0xB) := by decide
theorem test_decode_8XY5 : decodeTableWord 16 0b1000101010110101 = some (.op8XY5 0xA 0xB) := by decide
theorem test_decode_8XY6 : decodeTableWord 16 0b1000101010110110 = some (.op8XY6 0xA 0xB) := by decide
theorem test_decode_8XY7 : decodeTableWord 16 0b1000101010110111 = some (.op8XY7 0xA 0xB) := by decide
theorem test_decode_8XYE : decodeTableWord 16 0b1000101010111110 = some (.op8XYE 0xA 0xB) := by decide
theorem test_decode_9XY0 : decodeTableWord 16 0b1001000100100000 = some (.op9XY0 0x1 0x2) := by decide
theorem test_decode_ANNN : decodeTableWord 16 0b1010001011110000 = some (.opANNN 0x2F0) := by decide
theorem test_decode_BNNN : decodeTableWord 16 0b1011001011110000 = some (.opBNNN 0x2F0) := by decide
theorem test_decode_CXNN : decodeTableWord 16 0b1100000100001111 = some (.opCXNN 0x1 0x0F) := by decide
theorem test_decode_DXYN : decodeTableWord 16 0b1101000100100011 = some (.opDXYN 0x1 0x2 0x3) := by decide
theorem test_decode_EX9E : decodeTableWord 16 0b1110000110011110 = some (.opEX9E 0x1) := by decide
theorem test_decode_EXA1 : decodeTableWord 16 0b1110000110100001 = some (.opEXA1 0x1) := by decide
theorem test_decode_FX07 : decodeTableWord 16 0b1111110000000111 = some (.opFX07 0xC) := by decide
theorem test_decode_FX0A : decodeTableWord 16 0b1111110000001010 = some (.opFX0A 0xC) := by decide
theorem test_decode_FX15 : decodeTableWord 16 0b1111110000010101 = some (.opFX15 0xC) := by decide
theorem test_decode_FX18 : decodeTableWord 16 0b1111110000011000 = some (.opFX18 0xC) := by decide
theorem test_decode_FX1E : decodeTableWord 16 0b1111110000011110 = some (.opFX1E 0xC) := by decide
theorem test_decode_FX29 : decodeTableWord 16 0b1111110000101001 = some (.opFX29 0xC) := by decide
theorem test_decode_FX33 : decodeTableWord 16 0b1111110000110011 = some (.opFX33 0xC) := by decide
theorem test_decode_FX55 : decodeTableWord 16 0b1111110001010101 = some (.opFX55 0xC) := by decide
theorem test_decode_FX65 : decodeTableWord 16 0b1111110001100101 = some (.opFX65 0xC) := by decide

/-- E6 and X1 to X19: words no row matches. -/
theorem test_decode_illegal :
    ([0xF0A2, 0x0000, 0x00E1, 0x00EF, 0x00FE, 0x0123, 0x5121, 0x512F, 0x8128, 0x812D] : List Nat).all
      (fun w => decodeTableWord 16 w == none) = true := by decide
theorem test_decode_illegal_2 :
    ([0x812F, 0x9121, 0xE19F, 0xE1A0, 0xE000, 0xF100, 0xF11F, 0xF156, 0xF1FF, 0xFFFF] : List Nat).all
      (fun w => decodeTableWord 16 w == none) = true := by decide

/-- The decoder of bytes rejects by name, and leaves the rest of the list. -/
theorem test_decodeBytes :
    decodeBytes [0xA2, 0xF0, 0x12] = .ok (.opANNN 0x2F0, [0x12]) ∧
    decodeBytes [0xA2] = .error .truncated ∧ decodeBytes [] = .error .truncated ∧
    decodeBytes [0xF0, 0xA2] = .error (.unimplementedOpcode 0xF0A2) := by decide

/-! ## The checks of WellFormed refuse ill-formed terms -/

/-- The width of a field is its type, so the check on an instruction never fails. -/
theorem test_wellFormed_instr (i : Instr) : i.wellFormed = true := by
  cases i <;> simp [Instr.wellFormed] <;> omega
/-- T13, T14: 3584 bytes fit, 3585 do not. -/
theorem test_romFits : romFits (List.replicate 3584 1) = true ∧ romFits (List.replicate 3585 1) = false := by
  unfold romFits; rw [List.length_replicate, List.length_replicate]; decide
theorem test_fontFits : fontFits Config.fontBytes = true ∧ fontFits (0x00 :: Config.fontBytes) = false ∧
    fontFits [] = false := by decide
/-- An entry that reports key 3 for the set holding key 2 alone. -/
theorem test_keySelect_wellFormed :
    KeySelect.wellFormed [((Vector.replicate 16 false).set 2 true, 2)] = true ∧
    KeySelect.wellFormed [((Vector.replicate 16 false).set 2 true, 3)] = false := by decide

/-! ## One STEP, against the vectors of spec/95_test_vectors.md -/

/-- F2. -/
theorem test_00EE_pop : runs ({ r0 with pc := 0x300, sp := 16, stack := r0.stack.set 15 0xABC }) 0x00EE
    (fun t => t.sp = 15 && t.pc = 0xABC && t.stack[15] = 0xABC) = true := by decide
/-- F3. -/
theorem test_00EE_underflow : runs (r0) 0x00EE
    (fun t => t == { r0.withFetchWord 16 0x00EE with
      runState := .halted, faultCause := .stackUnderflow, faultPc := 0x200, faultOp := some 0x00EE }) = true := by decide
/-- F4. -/
theorem test_1NNN : runs (r0) 0x1ABC (fun t => t.pc = 0xABC) = true := by decide
/-- F5, S1. -/
theorem test_1NNN_self : runs (r0) 0x1200 (fun t => t == holding 0x1200) = true := by decide
/-- F8. -/
theorem test_2NNN_last_slot : runs ({ r0 with sp := 15 }) 0x2300
    (fun t => t.sp = 16 && t.stack[15] = 0x202 && t.pc = 0x300) = true := by decide
/-- F9; F10b. -/
theorem test_2NNN_overflow_and_wrap : (runs { r0 with sp := 16 } 0x2300
      (fun t => t.runState = .halted && t.faultCause = .stackOverflow && t.faultPc = 0x200 &&
        t.faultOp = some 0x2300 && t.pc = 0x200 && t.sp = 16 && t.stack = r0.stack) &&
    runs { r0 with pc := 0xFFE, stack := r0.stack.set 0 0x777 } 0x2300
      (fun t => t.stack[0] = 0x000 && t.sp = 1 && t.pc = 0x300)) = true := by decide
/-- F11. -/
theorem test_3XNN_skip : runs (r0.setV 3 0x2A) 0x332A (fun t => t.pc = 0x204) = true := by decide
/-- F14. -/
theorem test_3XNN_wraps : runs ({ r0 with pc := 0xFFE }) 0x3000 (fun t => t.pc = 0x002) = true := by decide
/-- F16. -/
theorem test_4XNN_equal : runs (r0.setV 3 0x2A) 0x432A (fun t => t.pc = 0x202) = true := by decide
/-- F17. -/
theorem test_4XNN_differs : runs (r0.setV 3 0x2A) 0x4300 (fun t => t.pc = 0x204) = true := by decide
/-- F18. -/
theorem test_5XY0_equal : runs (({ r0 with pc := 0x210 }.setV 1 7).setV 2 7) 0x5120
    (fun t => t.pc = 0x214) = true := by decide
/-- F19. -/
theorem test_5XY0_differs : runs (({ r0 with pc := 0x210 }.setV 1 7).setV 2 8) 0x5120
    (fun t => t.pc = 0x212) = true := by decide
/-- F21. -/
theorem test_9XY0_differs : runs (({ r0 with pc := 0x210 }.setV 1 7).setV 2 8) 0x9120
    (fun t => t.pc = 0x214) = true := by decide
/-- F23. -/
theorem test_9XY0_same : runs (r0.setV 3 0x99) 0x9330 (fun t => t.pc = 0x202) = true := by decide
/-- F27. -/
theorem test_BNNN_wraps : runs (r0.setV 0 0xFF) 0xBFFF (fun t => t.pc = 0x0FE) = true := by decide
/-- F28. -/
theorem test_BNNN_quirk : runs ((rJump.setV 0 0x77).setV 2 0x08) 0xB2F0 (fun t => t.pc = 0x2F8) = true := by decide
/-- A1. -/
theorem test_6XNN : runs (r0) 0x6A2F (fun t => t.getV 0xA = 0x2F && t.pc = 0x202) = true := by decide
/-- A5. -/
theorem test_7XNN_wraps : runs ((r0.setV 1 0xFF).setV 0xF 1) 0x7101
    (fun t => t.getV 1 = 0 && t.getV 0xF = 1) = true := by decide
/-- A7. -/
theorem test_7XNN_VF : runs (r0.setV 0xF 0xFF) 0x7F01 (fun t => t.getV 0xF = 0) = true := by decide
/-- A9. -/
theorem test_8XY0 : runs (r0.setV 2 0x33) 0x8120 (fun t => t.getV 1 = 0x33 && t.getV 2 = 0x33) = true := by decide
/-- A12. -/
theorem test_8XY1 : runs (((r0.setV 1 0xF0).setV 2 0x0F).setV 0xF 1) 0x8121
    (fun t => t.getV 1 = 0xFF && t.getV 0xF = 1) = true := by decide
/-- A13. -/
theorem test_8XY2 : runs (((r0.setV 1 0xF0).setV 2 0x3C).setV 0xF 1) 0x8122
    (fun t => t.getV 1 = 0x30 && t.getV 0xF = 1) = true := by decide
/-- A14. -/
theorem test_8XY3 : runs (((r0.setV 1 0xF0).setV 2 0x3C).setV 0xF 1) 0x8123
    (fun t => t.getV 1 = 0xCC && t.getV 0xF = 1) = true := by decide
/-- A16, B3. -/
theorem test_8XY4_carry : runs ((r0.setV 1 0xFF).setV 2 1) 0x8124
    (fun t => t.getV 1 = 0 && t.getV 0xF = 1 && t.pc = 0x202) = true := by decide
/-- A20. -/
theorem test_8XY4_into_VF : runs ((r0.setV 0xF 3).setV 1 4) 0x8F14 (fun t => t.getV 0xF = 0) = true := by decide
/-- A23, B4. -/
theorem test_8XY5_borrow : runs (((r0.setV 1 0).setV 2 1).setV 0xF 1) 0x8125
    (fun t => t.getV 1 = 0xFF && t.getV 0xF = 0) = true := by decide
/-- A25. -/
theorem test_8XY5_equal : runs ((r0.setV 1 5).setV 2 5) 0x8125
    (fun t => t.getV 1 = 0 && t.getV 0xF = 1) = true := by decide
/-- A30. -/
theorem test_8XY6_in_place : runs ((r0.setV 1 5).setV 2 8) 0x8126
    (fun t => t.getV 1 = 2 && t.getV 0xF = 1 && t.getV 2 = 8) = true := by decide
/-- A31. -/
theorem test_8XY6_quirk : runs ((rShift.setV 1 5).setV 2 8) 0x8126
    (fun t => t.getV 1 = 4 && t.getV 0xF = 0 && t.getV 2 = 8) = true := by decide
/-- A38. -/
theorem test_8XY7 : runs ((r0.setV 1 3).setV 2 0xA) 0x8127
    (fun t => t.getV 1 = 7 && t.getV 0xF = 1) = true := by decide
/-- A42. -/
theorem test_8XY7_VF_operand : runs ((r0.setV 1 1).setV 0xF 0) 0x81F7
    (fun t => t.getV 1 = 0xFF && t.getV 0xF = 0) = true := by decide
/-- A43. -/
theorem test_8XYE_in_place : runs (r0.setV 1 0x81) 0x812E
    (fun t => t.getV 1 = 2 && t.getV 0xF = 1) = true := by decide
/-- A44. -/
theorem test_8XYE_quirk : runs (((rShift.setV 1 0x11).setV 2 0x40).setV 0xF 1) 0x812E
    (fun t => t.getV 1 = 0x80 && t.getV 0xF = 0) = true := by decide
/-- A49: the byte on the random input is an argument of the STEP. -/
theorem test_CXNN_masks : runOps [.step 0xB7] ((r0.setV 1 0xAA).withFetchWord 16 0xC10F) =
    .next { (r0.setV 1 0x07).withFetchWord 16 0xC10F with pc := 0x202 } := next_of (by decide)
/-- A50. -/
theorem test_CXNN_any_answer_masked_by_0 : runs (r0.setV 1 0xAA) 0xC100
    (fun t => t.samples = 1 && t.pc = 0x202) = true := by decide
/-- M3. -/
theorem test_ANNN_clears_high_bits : runs ({ r0 with i := 0xFFFF }) 0xA000 (fun t => t.i = 0) = true := by decide
/-- M5, B5. -/
theorem test_FX1E_quirk : runs ({ rAddI with i := 0x0FFF }.setV 1 1) 0xF11E
    (fun t => t.i = 0x1000 && t.getV 0xF = 1) = true := by decide
/-- M6. -/
theorem test_FX1E_keeps_VF : runs (({ rAddI with i := 0x0100 }.setV 1 0x10).setV 0xF 1) 0xF11E
    (fun t => t.i = 0x0110 && t.getV 0xF = 1) = true := by decide
/-- M14. -/
theorem test_FX29_low_nibble : runs (r0.setV 1 0x1A) 0xF129 (fun t => t.i = 0x0082) = true := by decide
/-- M16. -/
theorem test_FX29_last : runs (r0.setV 1 0xFF) 0xF129 (fun t => t.i = 0x009B) = true := by decide
/-- M17, S4. -/
theorem test_FX33 : runs ({ r0 with i := 0x0300 }.setV 0 0xFE) 0xF033
    (fun t => t.memRead 0x300 = 2 && t.memRead 0x301 = 5 && t.memRead 0x302 = 4 && t.i = 0x0300) = true := by decide
/-- M22. -/
theorem test_FX33_wraps : runs ({ r0 with i := 0x0FFE }.setV 1 0x7B) 0xF133
    (fun t => t.memRead 0xFFE = 1 && t.memRead 0xFFF = 2 && t.memRead 0x000 = 3) = true := by decide
/-- M28. -/
theorem test_FX55_wraps : runs (({ r0 with i := 0x0FFF }.setV 0 0x11).setV 1 0x22) 0xF155
    (fun t => t.memRead 0xFFF = 0x11 && t.memRead 0x000 = 0x22 && t.i = 0x0FFF) = true := by decide
/-- M29. -/
theorem test_FX55_quirk : runs ({ rIncr with i := 0xFFFF }.setV 0 0x11) 0xF055
    (fun t => t.i = 0 && t.memRead 0xFFF = 0x11) = true := by decide
/-- M31. -/
theorem test_FX65 : runs (put { rIncr with i := 0x0300 } 0x300 [9, 8, 7, 6]) 0xF265
    (fun t => t.getV 0 = 9 && t.getV 1 = 8 && t.getV 2 = 7 && t.getV 3 = 0 && t.i = 0x0303) = true := by decide
/-- M34. -/
theorem test_FX65_font : runs ({ r0 with i := 0x0052 }) 0xF065
    (fun t => t.getV 0 = 0x90 && t.i = 0x0052) = true := by decide
/-- G1. -/
theorem test_00E0 : runs ((lit (lit r0 0 0) 31 63).setV 0xF 1) 0x00E0
    (fun t => litCount t = 0 && t.getV 0xF = 1) = true := by decide
/-- G5, B1. -/
theorem test_DXYN_clips : runs
    (put (({ r0 with i := 0x0300 }.setV 0 0x3F).setV 1 0x1F) 0x300 [0xFF, 0xFF, 0xFF, 0xFF, 0xFF]) 0xD015
    (fun t => litCount t = 1 && t.display 31 63 && t.getV 0xF = 0) = true := by decide
/-- G9: one cell off, one on. G13: X = F, the column is the old VF. -/
theorem test_DXYN_collision_and_VF_operand : (runs (put (lit { r0 with i := 0x0300 } 0 0) 0x300 [0xC0]) 0xD011
      (fun t => !t.display 0 0 && t.display 0 1 && litCount t = 1 && t.getV 0xF = 1) &&
    runs (put (({ r0 with i := 0x0300 }.setV 0xF 5).setV 1 7) 0x300 [0x80]) 0xDF11
      (fun t => t.getV 0xF = 0 && t.display 7 5)) = true := by decide
/-- K3. -/
theorem test_EX9E : runs (r0.keyPress 0xA |>.setV 1 0x1A) 0xE19E (fun t => t.pc = 0x204) = true := by decide
/-- K4. -/
theorem test_EX9E_other_key : runs (r0.keyPress 0xB |>.setV 1 0x0A) 0xE19E (fun t => t.pc = 0x202) = true := by decide
/-- K5. -/
theorem test_EXA1 : runs (r0.setV 1 0x0A) 0xE1A1 (fun t => t.pc = 0x204) = true := by decide
/-- K7. -/
theorem test_EXA1_down : runs (r0.keyPress 0xA |>.setV 1 0xFA) 0xE1A1 (fun t => t.pc = 0x202) = true := by decide
/-- K8. -/
theorem test_FX07 : runs ({ r0 with dt := 42 }) 0xF107 (fun t => t.getV 1 = 0x2A && t.dt = 42) = true := by decide
/-- K14. -/
theorem test_FX0A_waits : runs ({ r0 with pc := 0xFFE }) 0xF00A (fun t => t.pc = 0xFFE) = true := by decide
/-- K12. -/
theorem test_FX0A_lowest : runs ((r0.keyPress 7).keyPress 3) 0xF10A
    (fun t => t.getV 1 = 3 && t.pc = 0x202 && keyDown t.key 3) = true := by decide
/-- K16. -/
theorem test_FX15 : runs (r0.setV 0 0x0A) 0xF015 (fun t => t.dt = 10 && t.st = 0) = true := by decide
/-- K19. -/
theorem test_FX18 : runs (r0.setV 2 0x1E) 0xF218 (fun t => t.st = 30 && t.soundActive && t.dt = 0) = true := by decide
/-- X6. -/
theorem test_illegal_word : runs (r0.setV 1 1) 0x5121
    (fun t => t == { (r0.setV 1 1).withFetchWord 16 0x5121 with
      runState := .halted, faultCause := .unimplementedOpcode, faultPc := 0x200, faultOp := some 0x5121 }) = true := by decide
/-- E8: there is no word at 0xFFF, and nothing can be placed there. -/
theorem test_fetch_out_of_range : runs { r0 with pc := 0xFFF } 0x1200 (fun t => t == { r0 with
    pc := 0xFFF, runState := .halted, faultCause := .fetchOutOfRange, faultPc := 0xFFF, faultOp := none }) = true := by
  decide
/-- T5: one timer saturates, the other goes on. -/
theorem test_tick : runOps (List.replicate 5 .tick) { r0 with dt := 255, st := 3 } =
    .next { r0 with dt := 250, st := 0 } := next_of (by decide)
/-- T8. -/
theorem test_keyRelease : (keyDown ((r0.keyPress 0xA).keyPress 3 |>.keyRelease 0xA).key 3,
    keyDown ((r0.keyPress 0xA).keyPress 3 |>.keyRelease 0xA).key 0xA) = (true, false) := by decide
/-- T14: 3585 bytes are refused whole. -/
theorem test_loadRom_too_long : r0.loadRom (List.replicate 3585 1) = r0 ∧
    romRejected (List.replicate 3585 1) = true := by
  unfold State.loadRom romRejected; rw [List.length_replicate]
  exact ⟨rfl, by decide⟩
/-- T15, and E5's byte order: a loaded ROM is what the next STEP fetches. -/
theorem test_loadRom : runOps [.loadRom [0xA2, 0xF0], .step 7] r0 =
    .next { r0 with mem := [(0x200, 0xA2), (0x201, 0xF0)], i := 0x02F0, pc := 0x202 } := next_of (by decide)
/-- RESET with the reference configuration, from a halted state with memory written. -/
theorem test_reset : applyOp (.reset .reference) { put r0 0x300 [1] with runState := .halted, sp := 3 } = .next r0 :=
  next_of (by decide)
/-- A KEY_SELECT that reports the higher of keys 3 and 7 is followed; an ill-formed entry is not used. -/
theorem test_keySelect :
    selectKey [(((r0.keyPress 3).keyPress 7).key, 7)] ((r0.keyPress 3).keyPress 7).key = some 7 ∧
    selectKey [((r0.keyPress 3).key, 7)] (r0.keyPress 3).key = some 3 := by decide


/-! ## Witnesses: a concrete state and operands that meet the hypotheses of each statement -/

/-- A halted state that meets the invariant: an illegal word was fetched at 0x200. -/
def haltedState : State :=
  { r0 with runState := .halted, faultCause := .unimplementedOpcode, faultPc := 0x200, faultOp := some 0x0000 }

theorem reset_inv : State.reset.Inv := ⟨Memory.wf_reset, by decide, by decide, ⟨rfl, rfl⟩⟩
theorem halted_inv : haltedState.Inv :=
  ⟨Memory.wf_reset, by decide, by decide, rfl, by decide, 0x0000, rfl, by decide⟩
theorem step_illegal : step r0 = .next haltedState := next_of (by decide)
theorem step_jump : step (holding 0x1ABC) = .next { holding 0x1ABC with pc := 0xABC } := next_of (by decide)
theorem full_stack_inv : { r0 with sp := 16 }.Inv := ⟨Memory.wf_reset, by decide, by decide, ⟨rfl, rfl⟩⟩

theorem witness_DecodeAgreesWithMaskAndMatch : (⟨"FX65", 0xF065, 0xF0FF⟩ : OpcodeRow) ∈ opcodeRows ∧
    (0xFF65 : Word) &&& 0xF0FF = 0xF065 := by decide
theorem witness_EncodeOfDecodeIsTheWord : decodeWord 0x8AB4 = some (.op8XY4 0xA 0xB) := by decide
theorem witness_StepRunsTheDecodedInstruction : (holding 0x1ABC).runState = .run ∧ (holding 0x1ABC).pc ≠ 0xFFF ∧
    decodeWord (wordOfBytes ((holding 0x1ABC).memRead 0x200) ((holding 0x1ABC).memRead 0x201)) =
      some (.op1NNN 0xABC) := by decide
theorem witness_PlacedWordIsTheNextInstruction : Memory.wf r0.mem ∧ r0.runState = .run ∧ r0.pc ≠ 0xFFF ∧
    decodeTableWord 16 0xD123 = some (.opDXYN 1 2 3) := by decide
theorem witness_FetchIsBigEndianAndFaultsAtTheTop : (0x000 : Addr) ≠ 0xFFF ∧ (0xFFE : Addr) ≠ 0xFFF ∧
    { r0 with pc := 0xFFF }.runState = .run := by decide
/-- One state for each of the four faults. -/
theorem witness_FaultsRecordTheirDiagnostic : r0.runState = .run ∧
    (r0.fetch16 r0.pc = some 0x0000 ∧ decodeWord 0x0000 = none) ∧
    ((holding 0x2FFF).fetch16 0x200 = some 0x2FFF ∧ (0x2FFF : Word) &&& 0xF000 = 0x2000 ∧
      { holding 0x2FFF with sp := 16 }.sp = 16) ∧
    ((holding 0x00EE).fetch16 0x200 = some 0x00EE ∧ (holding 0x00EE).sp = 0) ∧
    { r0 with pc := 0xFFF }.pc = 0xFFF := by decide
/-- A STEP that faults and one that does not: also for FaultingStepCommitsNothing and StepKeepsInvariant. -/
theorem witness_EachFaultExactlyOnItsCondition : r0.runState = .run ∧ r0.faultCause = .none ∧
    step r0 = .next haltedState ∧ haltedState.runState = .halted ∧
    step (holding 0x1ABC) = .next { holding 0x1ABC with pc := 0xABC } :=
  ⟨rfl, rfl, step_illegal, rfl, step_jump⟩
theorem witness_FaultingStepCommitsNothing : r0.runState = .run ∧ step r0 = .next haltedState ∧
    haltedState.runState = .halted := ⟨rfl, step_illegal, rfl⟩
theorem witness_HaltedIgnoresAllButReset : haltedState.runState = .halted ∧
    ∀ op ∈ ([.step 7, .tick, .keyPress 1, .keyRelease 0xF, .loadRom [1]] : List Op),
      ∀ p, op ≠ .reset p := by
  refine ⟨rfl, ?_⟩; simp
theorem witness_SafeRunsHaveSafePrefixes : (∀ op ∈ ([.step 7] : List Op), ∀ p, op ≠ .reset p) ∧
    SafeRun ([.tick] ++ [.step 7]) (holding 0x1200) := by
  exact ⟨by simp, holding 0x1200, next_of (by decide), rfl⟩
theorem witness_StepAlwaysAnswers : r0.Inv ∧ haltedState.Inv ∧ { r0 with sp := 16 }.Inv :=
  ⟨reset_inv, halted_inv, full_stack_inv⟩
theorem witness_StepKeepsInvariant : r0.Inv ∧ step r0 = .next haltedState := ⟨reset_inv, step_illegal⟩
theorem witness_EveryRunKeepsInvariant : r0.Inv ∧
    ∀ p, Op.reset p ∈ ([.reset .reference, .step 7] : List Op) → fontFits p.font = true := by
  refine ⟨reset_inv, fun p h => ?_⟩
  simp only [List.mem_cons, Op.reset.injEq, reduceCtorEq, List.not_mem_nil, or_false] at h
  subst h; decide
/-- Memory.wf of the empty list and of a list with entries at both ends of the address space. -/
theorem witness_MemoryReadAfterWrite : Memory.wf r0.mem ∧ Memory.wf [(0, 1), (0xFFF, 0x80)] := by decide
theorem witness_CanonicalMemoriesThatReadAlikeAreEqual : Memory.wf [(0, 1)] ∧
    ∀ a, a < 4096 → Memory.read [(0, 1)] a = Memory.read [(0, 1)] a := ⟨by decide, fun _ _ => rfl⟩
theorem witness_DataAddressesWrapAndAreDistinct : (15 : Nat) ≤ 15 ∧ { r0 with i := 0xFFFF }.ea 15 = 0x00E ∧
    { r0 with i := 0xFFFF }.ea 15 = { r0 with i := 0xFFFF }.ea 15 := by decide
/-- Two bytes stored at 0x300, and the address of the first one (X = 1, j = 0); and sixteen (X = F, j = 14). -/
theorem witness_StoredCodeIsSeenByTheNextFetch : Memory.wf r0.mem ∧
    (∃ t, exec (.opFX55 1) { r0 with i := 0x300 } = .next t) ∧
    (∃ t, exec (.opFX55 0xF) { r0 with i := 0x300 } = .next t) ∧
    0 + 1 ≤ (1 : Nibble).toNat ∧ 14 + 1 ≤ (0xF : Nibble).toNat ∧ (0x300 : Addr) ≠ 0xFFF ∧
    0x300 = { r0 with i := 0x300 }.ea 0 ∧ 0x30E = { r0 with i := 0x300 }.ea 14 := by
  refine ⟨Memory.wf_reset, ⟨_, rfl⟩, ⟨_, rfl⟩, by decide⟩
/-- SP = 1 and SP = 16 (j = 0 and j = 15), and SP = 0. -/
theorem witness_ReturnPopsOrUnderflows : { r0 with sp := 1 }.sp.toNat = (0 : Nibble).toNat + 1 ∧
    { r0 with sp := 16 }.sp.toNat = (15 : Nibble).toNat + 1 ∧ r0.sp = 0 := by decide
/-- SP = 0 and SP = 15, and SP = 16. -/
theorem witness_CallPushesOrOverflows : r0.sp.toNat = (0 : Nibble).toNat ∧
    { r0 with sp := 15 }.sp.toNat = (15 : Nibble).toNat ∧ { r0 with sp := 16 }.sp = 16 := by decide
theorem witness_CallThenReturnComesBack : { r0 with sp := 15 }.sp.toNat < 16 ∧
    ∃ t, exec (.op2NNN 0x300) { r0 with sp := 15 } = .next t ∧ t.stack = t.stack ∧ t.sp = t.sp := by
  refine ⟨by decide, _, rfl, rfl, rfl⟩
theorem witness_StackPointerOutOfRangeStops : 16 < { r0 with sp := 17 }.sp.toNat ∧
    16 < { r0 with sp := 31 }.sp.toNat := by decide
/-- A word for each of the encodings the per-instruction statements name, with every other field bit at 1. -/
theorem witness_encodings :
    ([(0x1FFF, 0xF000, 0x1000), (0x2FFF, 0xF000, 0x2000), (0x3FFF, 0xF000, 0x3000), (0x4FFF, 0xF000, 0x4000),
      (0x5FF0, 0xF00F, 0x5000), (0x6FFF, 0xF000, 0x6000), (0x7FFF, 0xF000, 0x7000), (0x8FF0, 0xF00F, 0x8000),
      (0x8FF1, 0xF00F, 0x8001), (0x8FF2, 0xF00F, 0x8002), (0x8FF3, 0xF00F, 0x8003)] ++
     [(0x8FF4, 0xF00F, 0x8004), (0x8FF5, 0xF00F, 0x8005), (0x8FF6, 0xF00F, 0x8006), (0x8FF7, 0xF00F, 0x8007),
      (0x8FFE, 0xF00F, 0x800E), (0x9FF0, 0xF00F, 0x9000), (0xAFFF, 0xF000, 0xA000), (0xBFFF, 0xF000, 0xB000),
      (0xCFFF, 0xF000, 0xC000), (0xDFFF, 0xF000, 0xD000), (0xDFF0, 0xF00F, 0xD000)] ++
     [(0xEF9E, 0xF0FF, 0xE09E), (0xEFA1, 0xF0FF, 0xE0A1), (0xFF07, 0xF0FF, 0xF007), (0xFF0A, 0xF0FF, 0xF00A),
      (0xFF15, 0xF0FF, 0xF015), (0xFF18, 0xF0FF, 0xF018), (0xFF1E, 0xF0FF, 0xF01E), (0xFF29, 0xF0FF, 0xF029),
      (0xFF33, 0xF0FF, 0xF033), (0xFF55, 0xF0FF, 0xF055), (0xFF65, 0xF0FF, 0xF065)] :
      List (Word × Word × Word)).all (fun e => e.1 &&& e.2.1 == e.2.2) = true := by decide
/-- ConditionalSkips has no hypothesis beside its encodings; both outcomes of a register test and of a key test. -/
theorem witness_ConditionalSkips : r0.getV 3 = 0 ∧ r0.getV 3 ≠ 1 ∧
    (r0.keyPress 0).key[(r0.getV 3).toNat % 16]'(Nat.mod_lt _ (by decide)) = true ∧
    r0.key[(r0.getV 3).toNat % 16]'(Nat.mod_lt _ (by decide)) = false := by decide
theorem witness_JumpWithOffset : r0.quirks.jumpOffsetUsesVx = false ∧
    rJump.quirks.jumpOffsetUsesVx = true := by decide
/-- A completed instruction and a fault. -/
theorem witness_PcAfterEveryInstruction : r0.runState = .run ∧ step r0 = .next haltedState ∧
    haltedState.runState = .halted ∧ (holding 0x1ABC).fetch16 0x200 = some 0x1ABC ∧
    decodeWord 0x1ABC = some (.op1NNN 0xABC) ∧
    step (holding 0x1ABC) = .next { holding 0x1ABC with pc := 0xABC } ∧
    { holding 0x1ABC with pc := 0xABC }.runState = .run :=
  ⟨rfl, step_illegal, rfl, by decide, by decide, step_jump, rfl⟩
theorem witness_FixedPointsOfStep : (holding 0x1200).runState = .run ∧
    (holding 0x1200).fetch16 0x200 = some (0x1000 ||| (0x200 : Addr).setWidth 16) ∧
    (holding 0xF50A).fetch16 0x200 = some 0xF50A ∧ decodeWord 0xF50A = some (.opFX0A 5) ∧
    ∀ k, keyDown (holding 0xF50A).key k = false := by decide
/-- X other than F and X = F, for AddWithCarryOut, SubtractBothWays and ShiftsByOne; the shift source under both
values of its quirk. -/
theorem witness_AddWithCarryOut : (0 : Nibble) ≠ 0xF ∧ (0xE : Nibble) ≠ 0xF := by decide
theorem witness_SubtractBothWays : (0 : Nibble) ≠ 0xF ∧ (0xE : Nibble) ≠ 0xF := by decide
theorem witness_ShiftsByOne :
    (8 : Byte) = (if rShift.quirks.shiftUsesVy = true then (rShift.setV 2 8).getV 2 else rShift.getV 1) ∧
    (5 : Byte) = (if r0.quirks.shiftUsesVy = true then r0.getV 2 else (r0.setV 1 5).getV 1) := by decide
/-- A word that is not a CXNN, and one that is. -/
theorem witness_RandomInputIsAnArgument : (holding 0x1ABC).fetch16 0x200 = some 0x1ABC ∧
    decodeWord 0x1ABC = some (.op1NNN 0xABC) ∧ (holding 0xC10F).runState = .run ∧
    (holding 0xC10F).fetch16 0x200 = some 0xC10F ∧ decodeWord 0xC10F = some (.opCXNN 1 0x0F) ∧
    step (holding 0x1ABC) = .next { holding 0x1ABC with pc := 0xABC } ∧ ∃ t, step (holding 0xC10F) = .next t :=
  ⟨by decide, by decide, rfl, by decide, by decide, step_jump, _, rfl⟩
theorem witness_AddToIndex : rAddI.quirks.addISetsVf = true ∧
    { rAddI with i := 0x0FFF }.i.toNat + (rAddI.setV 1 1 |>.getV 1).toNat > 0x0FFF := by decide
theorem witness_StoreDecimalDigits : Memory.wf r0.mem ∧ Memory.wf [(0, 1), (0xFFF, 0x80)] := by decide
theorem witness_StoreRegisters : Memory.wf r0.mem ∧ (0 : Nibble).toNat ≤ (0 : Nibble).toNat ∧
    (0xF : Nibble).toNat ≤ (0xF : Nibble).toNat := by decide
theorem witness_LoadRegisters : Memory.wf r0.mem ∧ r0.quirks.loadStoreIncrementsI = false ∧
    (∃ t, exec (.opFX55 0xF) r0 = .next t) ∧ (0xF : Nibble).toNat ≤ (0xF : Nibble).toNat :=
  ⟨Memory.wf_reset, rfl, ⟨_, rfl⟩, by decide⟩
/-- A cell that collides at the bottom right corner. -/
theorem witness_DrawIsXorOfTheClippedSprite : (1 : Nibble) ≠ 0 ∧ (0xF : Nibble) ≠ 0 ∧
    (lit (put (({ r0 with i := 0x0300 }.setV 0 0x3F).setV 1 0x1F) 0x300 [0xFF]) 31 63).display 31 63 = true ∧
    (lit (put (({ r0 with i := 0x0300 }.setV 0 0x3F).setV 1 0x1F) 0x300 [0xFF]) 31 63).spriteAt 0 1 1 31 63 = true := by
  decide
/-- On a cleared screen no lit cell lies under the sprite: the other case. -/
theorem witness_DrawIsXorOfTheClippedSprite_noCollision : ∀ (r : BitVec 5) (c : BitVec 6), r0.display r c = true →
    r0.spriteAt 0 1 1 r.toNat c.toNat = false := by
  intro r c h; simp [State.display, State.reset] at h
theorem witness_DrawOfZeroRowsDoesNothing : (0xDFF0 : Word) &&& 0xF00F = 0xD000 := by decide
theorem witness_DrawingTwiceErases : (0 : Nibble) ≠ 0xF ∧ (1 : Nibble) ≠ 0xF ∧ (5 : Nibble) ≠ 0 ∧
    ∃ t u, exec (.opDXYN 0 1 5) r0 = .next t ∧ exec (.opDXYN 0 1 5) t = .next u :=
  ⟨by decide, by decide, by decide, _, _, rfl, rfl⟩
theorem witness_KeyWait : (∀ k, keyDown r0.key k = false) ∧ (∃ k, keyDown (r0.keyPress 0xF).key k = true) ∧
    r0.keySelect = [] := ⟨by decide, ⟨0xF, by decide⟩, rfl⟩
theorem witness_KeySelectionReportsAPressedKey : selectKey [] (r0.keyPress 7).key = some 7 ∧
    keyDown (r0.keyPress 7).key 7 = true ∧ selectKey [] r0.key = none := by decide
/-- The lowest key is a function that answers a member of each non-empty set. -/
theorem witness_EveryKeySelectionIsATable : ∀ keys : KeySet, (∃ k, keyDown keys k = true) →
    keyDown keys ((lowestKey keys).getD 0) = true := by
  rintro keys ⟨k, hk⟩
  cases h : lowestKey keys with
  | none => rw [(lowestKey_eq_none keys).1 h k] at hk; cases hk
  | some j => exact lowestKey_mem h
theorem witness_TicksCountEachTimerDown : r0.runState = .run ∧ haltedState.runState = .halted := by decide
theorem witness_KeyEventsSetOneKey : r0.runState = .run ∧ haltedState.runState = .halted := by decide
theorem witness_ResetEstablishesTheResetState : fontFits Params.reference.font = true := by decide
/-- The longest image and one byte more. -/
theorem witness_LoadRomCopiesOrRefuses : Memory.wf r0.mem ∧ r0.runState = .run ∧
    (List.replicate 3584 (1 : Byte)).length ≤ 3584 ∧ 3584 < (List.replicate 3585 (1 : Byte)).length ∧
    (0x200 : Addr).toNat < 0x200 + (List.replicate 3584 (1 : Byte)).length ∧
    (0xFFF : Addr).toNat < 0x200 + (List.replicate 3584 (1 : Byte)).length ∧ haltedState.runState = .halted := by
  rw [List.length_replicate, List.length_replicate]
  exact ⟨Memory.wf_reset, rfl, by decide⟩
theorem witness_ConfigurationNeverChanges : (∀ op ∈ ([.step 7] : List Op), ∀ p, op ≠ .reset p) ∧
    runOps [.step 7] r0 = .next haltedState := ⟨by simp, next_of (by decide)⟩
theorem witness_NothingIsWrittenBeyondTheAccessMatrix : r0.runState = .run ∧
    exec (.op1NNN 0xABC) r0 = .next { r0 with pc := 0xABC } ∧ { r0 with pc := 0xABC }.runState = .run :=
  ⟨rfl, rfl, rfl⟩
/-- Two different states that agree on what 6XNN may read. -/
theorem witness_NothingIsReadBeyondTheAccessMatrix : Memory.wf r0.mem ∧ Memory.wf { r0 with dt := 9 }.mem ∧
    { r0 with dt := 9 }.pc = r0.pc ∧ (∀ l, (Instr.op6XNN 1 2).mayRead r0 l → r0.sameAt { r0 with dt := 9 } l) ∧
    ∃ t, exec (.op6XNN 1 2) r0 = .next t :=
  ⟨Memory.wf_reset, Memory.wf_reset, rfl, fun _ h => h.elim, _, rfl⟩
/-- SP = 0: all sixteen entries are dead. -/
theorem witness_DeadStackEntriesAreUnobservable :
    r0.SameLiveStack { r0 with stack := Vector.replicate 16 0x777 } ∧ runOps [.tick] r0 = .next r0 :=
  ⟨⟨rfl, fun _ h => absurd h (Nat.not_lt_zero _)⟩, next_of (by decide)⟩

end Sys2Proof.Tests
end

/-! ## The frame of every instruction (00_scope.md R13, 10_state.md R36)

`h.setV b hw` and its kin below extend a frame `h : s.onlyChanges t w` by one more update of `t`, given that `w` admits
the location it writes. A meaning is a chain of such updates, so its frame is read off its definition. -/

namespace Sys2Proof.Machine

/-- What holds the same from `s` to `t` and from `t` to `u` holds the same from `s` to `u`. -/
theorem State.sameAt.trans {s t u : State} {l : Loc} (h : s.sameAt t l) (h' : t.sameAt u l) : s.sameAt u l := by
  cases l <;> exact Eq.trans h' h

theorem State.onlyChanges.refl (s : State) (w : Loc → Prop) : s.onlyChanges s w := by
  intro l _
  cases l <;> exact Eq.refl _

theorem State.onlyChanges.trans {s t u : State} {w : Loc → Prop} (h : s.onlyChanges t w) (h' : t.onlyChanges u w) :
    s.onlyChanges u w := fun l hl => (h l hl).trans (h' l hl)

section
variable {s t : State} {w : Loc → Prop}

theorem State.onlyChanges.setV (h : s.onlyChanges t w) {r : Nibble} (b : Byte) (hw : w (.v r)) :
    s.onlyChanges (t.setV r b) w := by
  refine h.trans fun l hl => ?_
  cases l with
  | v q => exact t.getV_setV_ne b fun e => hl (e ▸ hw)
  | _ => rfl

theorem State.onlyChanges.setPc (h : s.onlyChanges t w) (p : Addr) (hw : w .pc) : s.onlyChanges (t.setPc p) w := by
  refine h.trans fun l hl => ?_
  cases l with
  | pc => exact absurd hw hl
  | _ => rfl

theorem State.onlyChanges.setI (h : s.onlyChanges t w) (a : Word) (hw : w .i) : s.onlyChanges (t.setI a) w := by
  refine h.trans fun l hl => ?_
  cases l with
  | i => exact absurd hw hl
  | _ => rfl

theorem State.onlyChanges.setDt (h : s.onlyChanges t w) (b : Byte) (hw : w .dt) : s.onlyChanges (t.setDt b) w := by
  refine h.trans fun l hl => ?_
  cases l with
  | dt => exact absurd hw hl
  | _ => rfl

theorem State.onlyChanges.setSt (h : s.onlyChanges t w) (b : Byte) (hw : w .st) : s.onlyChanges (t.setSt b) w := by
  refine h.trans fun l hl => ?_
  cases l with
  | st => exact absurd hw hl
  | _ => rfl

theorem State.onlyChanges.takeRand (h : s.onlyChanges t w) (hw : w .samples) : s.onlyChanges t.takeRand w := by
  refine h.trans fun l hl => ?_
  cases l with
  | samples => exact absurd hw hl
  | _ => rfl

theorem State.onlyChanges.memWrite (h : s.onlyChanges t w) {a : Addr} (b : Byte) (hw : w (.byte a)) :
    s.onlyChanges (t.memWrite a b) w := by
  refine h.trans fun l hl => ?_
  cases l with
  | byte c => exact t.memRead_memWrite_ne b fun e => hl (e ▸ hw)
  | _ => rfl

theorem State.onlyChanges.setFb (h : s.onlyChanges t w) (fb : Framebuffer) (hw : ∀ r c, w (.cell r c)) :
    s.onlyChanges { t with fb := fb } w := by
  refine h.trans fun l hl => ?_
  cases l with
  | cell r c => exact absurd (hw r c) hl
  | _ => rfl

theorem State.onlyChanges.setSp (h : s.onlyChanges t w) (p : BitVec 5) (hw : w .sp) :
    s.onlyChanges { t with sp := p } w := by
  refine h.trans fun l hl => ?_
  cases l with
  | sp => exact absurd hw hl
  | _ => rfl

/-- A push writes the one entry at its index. -/
theorem State.onlyChanges.setStack (h : s.onlyChanges t w) {j : Nibble} (a : Addr) (hw : w (.stackAt j)) :
    s.onlyChanges { t with stack := t.stack.set j.toNat a j.isLt } w := by
  refine h.trans fun l hl => ?_
  cases l with
  | stackAt k =>
    have hne : j ≠ k := fun e => hl (e ▸ hw)
    exact Vector.getElem_set_ne j.isLt k.isLt (mt BitVec.eq_of_toNat_eq hne)
  | _ => rfl

theorem State.onlyChanges.setFlag (h : s.onlyChanges t w) (b : Bool) (hw : w (.v vf)) :
    s.onlyChanges (t.setFlag b) w := h.setV _ hw

theorem State.onlyChanges.setResultAndFlag (h : s.onlyChanges t w) {x : Nibble} (b : Byte) (f : Bool)
    (hx : w (.v x)) (hf : w (.v vf)) : s.onlyChanges (t.setResultAndFlag x b f) w := (h.setV b hx).setFlag f hf

theorem State.onlyChanges.skipIf (h : s.onlyChanges t w) (b : Bool) (hw : w .pc) :
    s.onlyChanges (t.skipIf b) w := by
  cases b
  · exact h
  · exact h.setPc _ hw

/-- I moves only under `load_store_increments_i`. -/
theorem State.onlyChanges.bumpIndex (h : s.onlyChanges t w) (x : Nibble)
    (hw : t.quirks.loadStoreIncrementsI = true → w .i) : s.onlyChanges (t.bumpIndex x) w := by
  unfold State.bumpIndex
  split
  · next hq => exact h.setI _ (hw hq)
  · exact h

/-- A store leaves I alone, so every address it writes is computed from the I of `s` (20_memory.md R54). -/
theorem State.onlyChanges_storeBytes (f : Nat → Byte) {n : Nat} (hw : ∀ k < n, w (.byte (s.ea k))) :
    s.onlyChanges (s.storeBytes f n) w := by
  induction n with
  | zero => exact .refl s w
  | succ n ih => exact (ih fun k hk => hw k (by omega)).memWrite _ (hw n (by omega))

theorem State.onlyChanges_loadRegs {n : Nat} (hw : ∀ k < n, w (.v (BitVec.ofNat 4 k))) :
    s.onlyChanges (s.loadRegs n) w := by
  induction n with
  | zero => exact .refl s w
  | succ n ih => exact (ih fun k hk => hw k (by omega)).setV _ (hw n (by omega))

/-- The frame of the state a meaning answers. -/
theorem State.onlyChanges.of_next {u : State} (hu : s.onlyChanges u w) (h : (.next u : Result) = .next t) :
    s.onlyChanges t w := by
  cases h; exact hu

end

/-! The instructions whose meaning branches. -/

/-- Where 00EE does not underflow it writes SP and PC, and the slot keeps its value (41_flow.md R110). -/
theorem exec00EE_onlyChanges {s t : State} (h : exec00EE s = .next t) (ht : t.runState = .run) :
    s.onlyChanges t (Instr.op00EE.mayWrite s) := by
  rcases exec00EE_cases s with ⟨-, e⟩ | ⟨_, -, e⟩ | ⟨-, e⟩ <;> rw [e] at h <;> cases h
  · cases ht
  · have same : s.onlyChanges s (Instr.op00EE.mayWrite s) := .refl s _
    exact (same.setSp (s.sp - 1) (.inl rfl)).setPc s.stack[(s.sp - 1).toNat] (.inr rfl)

/-- SP is below 16 where 2NNN pushes, so its low four bits number the slot (41_flow.md R112). -/
theorem exec2NNN_onlyChanges {nnn : Addr} {s t : State} (h : exec2NNN nnn s = .next t) (ht : t.runState = .run) :
    s.onlyChanges t ((Instr.op2NNN nnn).mayWrite s) := by
  rcases exec2NNN_cases nnn s with ⟨-, e⟩ | ⟨hsp, e⟩ | ⟨-, e⟩ <;> rw [e] at h <;> cases h
  · cases ht
  · have hj : (s.sp.setWidth 4).toNat = s.sp.toNat := by rw [BitVec.toNat_setWidth]; omega
    have same : s.onlyChanges s ((Instr.op2NNN nnn).mayWrite s) := .refl s _
    have push := same.setStack s.pc (.inl rfl)
    simp only [hj] at push
    exact (push.setSp _ (.inr (.inl rfl))).setPc _ (.inr (.inr rfl))

/-- DXY0 changes nothing; any other DXYN writes cells and VF (44_display.md R171, R172). -/
theorem execDXYN_onlyChanges {x y n : Nibble} {s t : State} (h : execDXYN x y n s = .next t) :
    s.onlyChanges t ((Instr.opDXYN x y n).mayWrite s) := by
  unfold execDXYN at h
  split at h
  · exact (State.onlyChanges.refl s _).of_next h
  · next hn =>
    exact (((State.onlyChanges.refl s _).setFb _ fun _ _ => ⟨hn, .inl trivial⟩).setFlag _ ⟨hn, .inr rfl⟩).of_next h

/-- FX1E writes VF only under its quirk (43_index_memory.md R151). -/
theorem execFX1E_onlyChanges {x : Nibble} {s t : State} (h : execFX1E x s = .next t) :
    s.onlyChanges t ((Instr.opFX1E x).mayWrite s) := by
  have hi : s.onlyChanges (s.setI (s.i + (s.getV x).setWidth 16)) ((Instr.opFX1E x).mayWrite s) :=
    (State.onlyChanges.refl s _).setI _ (.inl rfl)
  refine State.onlyChanges.of_next ?_ h
  split
  · next hq => exact hi.setFlag _ (.inr ⟨(Bool.and_eq_true_iff.1 hq).1, rfl⟩)
  · exact hi

/-- FX0A waits where KEY_SELECT answers nothing, and else loads the key it answers (45_keypad_timers.md R193). -/
theorem execFX0A_cases (x : Nibble) (s : State) :
    (selectKey s.keySelect s.key = none ∧ execFX0A x s = .next (s.setPc (s.pc - 2))) ∨
    ∃ k, selectKey s.keySelect s.key = some k ∧ execFX0A x s = .next (s.setV x (k.setWidth 8)) := by
  unfold execFX0A
  cases selectKey s.keySelect s.key with
  | none => exact .inl ⟨rfl, rfl⟩
  | some k => exact .inr ⟨k, rfl, rfl⟩

theorem execFX0A_onlyChanges {x : Nibble} {s t : State} (h : execFX0A x s = .next t) :
    s.onlyChanges t ((Instr.opFX0A x).mayWrite s) := by
  rcases execFX0A_cases x s with ⟨-, e⟩ | ⟨k, -, e⟩ <;> rw [e] at h
  · exact ((State.onlyChanges.refl s _).setPc _ (.inr rfl)).of_next h
  · exact ((State.onlyChanges.refl s _).setV _ (.inl rfl)).of_next h

theorem execFX55_onlyChanges {x : Nibble} {s t : State} (h : execFX55 x s = .next t) :
    s.onlyChanges t ((Instr.opFX55 x).mayWrite s) :=
  ((State.onlyChanges_storeBytes _ fun k hk => .inl ⟨k, hk, rfl⟩).bumpIndex x
    fun hq => .inr ⟨by simpa using hq, rfl⟩).of_next h

theorem execFX65_onlyChanges {x : Nibble} {s t : State} (h : execFX65 x s = .next t) :
    s.onlyChanges t ((Instr.opFX65 x).mayWrite s) := by
  refine ((State.onlyChanges_loadRegs fun k hk => .inl ?_).bumpIndex x
    fun hq => .inr ⟨by simpa using hq, rfl⟩).of_next h
  show (BitVec.ofNat 4 k).toNat < x.toNat + 1
  rw [BitVec.toNat_ofNat]; omega

/-- Settles O57: each meaning is a chain of updates the matrix admits; the two faults of 00EE and 2NNN leave HALTED. -/
theorem nothingIsWrittenBeyondTheAccessMatrix : Obligations.NothingIsWrittenBeyondTheAccessMatrix := by
  intro i s t _ h ht
  have same : s.onlyChanges s (i.mayWrite s) := .refl s _
  cases i with
  | op00E0 => exact (same.setFb _ fun _ _ => trivial).of_next h
  | op00EE => exact exec00EE_onlyChanges h ht
  | op2NNN nnn => exact exec2NNN_onlyChanges h ht
  | op1NNN | opBNNN => exact (same.setPc _ rfl).of_next h
  | op3XNN | op4XNN | op5XY0 | op9XY0 | opEX9E | opEXA1 => exact (same.skipIf _ rfl).of_next h
  | op6XNN | op7XNN | op8XY0 | op8XY1 | op8XY2 | op8XY3 | opFX07 => exact (same.setV _ rfl).of_next h
  | op8XY4 | op8XY5 | op8XY6 | op8XY7 | op8XYE =>
    exact (same.setResultAndFlag _ _ (.inl rfl) (.inr rfl)).of_next h
  | opANNN | opFX29 => exact (same.setI _ rfl).of_next h
  | opCXNN => exact ((same.takeRand (.inr rfl)).setV _ (.inl rfl)).of_next h
  | opDXYN => exact execDXYN_onlyChanges h
  | opFX0A => exact execFX0A_onlyChanges h
  | opFX15 => exact (same.setDt _ rfl).of_next h
  | opFX18 => exact (same.setSt _ rfl).of_next h
  | opFX1E => exact execFX1E_onlyChanges h
  | opFX33 => exact (State.onlyChanges_storeBytes _ fun k hk => ⟨k, hk, rfl⟩).of_next h
  | opFX55 => exact execFX55_onlyChanges h
  | opFX65 => exact execFX65_onlyChanges h

/-! ## KEY_SELECT as a table (00_scope.md R6, 45_keypad_timers.md R193) -/

/-- A selection is the lowest key, or a pressed key the table gives. -/
theorem selectKey_cases (table : KeySelect) (keys : KeySet) :
    selectKey table keys = lowestKey keys ∨ ∃ k, keyDown keys k = true ∧ selectKey table keys = some k := by
  unfold selectKey
  split
  · next e _ =>
    split
    · next hk => exact .inr ⟨e.2, hk, rfl⟩
    · exact .inl rfl
  · exact .inl rfl

theorem selectKey_eq_none (table : KeySelect) (keys : KeySet) :
    selectKey table keys = none ↔ ∀ k, keyDown keys k = false := by
  rcases selectKey_cases table keys with e | ⟨k, hk, e⟩ <;> rw [e]
  · exact lowestKey_eq_none keys
  · exact ⟨nofun, fun h => absurd ((h k).symm.trans hk) (by decide)⟩

theorem selectKey_mem {table : KeySelect} {keys : KeySet} {k : Nibble} (h : selectKey table keys = some k) :
    keyDown keys k = true := by
  rcases selectKey_cases table keys with e | ⟨j, hj, e⟩ <;> rw [e] at h
  · exact lowestKey_mem h
  · cases h; exact hj

/-- The default selection is the least pressed key: the sixteen indices are searched in ascending order. -/
theorem lowestKey_le {keys : KeySet} {k j : Nibble} (h : lowestKey keys = some k) (hj : keyDown keys j = true) :
    k.toNat ≤ j.toNat := by
  obtain ⟨-, below, above, hsplit, hbelow⟩ := List.find?_eq_some_iff_append.1 h
  have hsorted : keyIndices.Pairwise (fun a b => a.toNat < b.toNat) := by decide
  have hmem := mem_keyIndices j
  rw [hsplit] at hsorted hmem
  rcases List.mem_append.1 hmem with hj' | hj'
  · simpa [hj] using hbelow j hj'
  · rcases List.mem_cons.1 hj' with rfl | hj'
    · exact le_rfl
    · exact (List.rel_of_pairwise_cons (List.pairwise_append.1 hsorted).2.1 hj').le

/-- Settles O48, from the two things a selection can be. -/
theorem keySelectionReportsAPressedKey : Obligations.KeySelectionReportsAPressedKey := fun table keys =>
  ⟨selectKey_eq_none table keys, fun _ => selectKey_mem, fun _ _ => lowestKey_le⟩

/-- A key set is the function of its members, so there are finitely many. -/
theorem keyDown_injective : Function.Injective keyDown := by
  intro a b h
  ext i hi
  have := congrFun h (BitVec.ofNat 4 i)
  simpa [keyDown, Nat.mod_eq_of_lt hi] using this

theorem exists_list_of_all_keySets : ∃ all : List KeySet, ∀ keys, keys ∈ all :=
  have : Finite KeySet := .of_injective keyDown keyDown_injective
  let ⟨all, _, h⟩ := Finite.exists_univ_list KeySet
  ⟨all, h⟩

/-- The `KEY_SELECT` table that lists the answer of `f` for each of the given key sets. -/
def tableOf (f : KeySet → Nibble) (all : List KeySet) : KeySelect := all.map fun keys => (keys, f keys)

theorem find?_tableOf (f : KeySet → Nibble) {all : List KeySet} {keys : KeySet} (h : keys ∈ all) :
    ((tableOf f all).find? fun e => e.1 = keys) = some (keys, f keys) := by
  induction all with
  | nil => cases h
  | cons k all ih =>
    by_cases hk : k = keys
    · simp [tableOf, hk]
    · have hmem : keys ∈ all := (List.mem_cons.1 h).resolve_left (Ne.symm hk)
      simpa [tableOf, hk] using ih hmem

theorem selectKey_tableOf (f : KeySet → Nibble) {all : List KeySet} {keys : KeySet} (h : keys ∈ all)
    (hf : keyDown keys (f keys) = true) : selectKey (tableOf f all) keys = some (f keys) := by
  simp [selectKey, find?_tableOf f h, hf]

/-- Settles O49: the table that lists every one of the finitely many key sets with its answer. -/
theorem everyKeySelectionIsATable : Obligations.EveryKeySelectionIsATable := by
  intro f hf
  obtain ⟨all, hall⟩ := exists_list_of_all_keySets
  exact ⟨tableOf f all, fun keys hne => selectKey_tableOf f (hall keys) (hf keys hne)⟩

/-! ## RESET with the reference configuration (70_reset_and_hazards.md R240) -/

/-- The default FONT is what unlisted memory reads as, so writing it to the reset memory lists nothing. -/
theorem writeList_fontBytes_reset :
    Memory.writeList Config.fontBytes Config.fontBase State.reset.mem = State.reset.mem := by
  decide

theorem resetWith_reference (s : State) :
    s.resetWith Params.reference = { State.reset with samples := s.samples } :=
  congrArg (fun m => { State.reset with mem := m, samples := s.samples }) writeList_fontBytes_reset

/-- Settles O53: the default FONT is the memory's reset contents, and every other field is given. -/
theorem resetStateIsResetOfTheReferenceConfiguration :
    Obligations.ResetStateIsResetOfTheReferenceConfiguration :=
  fun s => congrArg Host.Outcome.next (resetWith_reference s)

end Sys2Proof.Machine

/-! ## The word a decoded instruction came from (30_encoding.md R74, R80) -/

namespace Sys2Proof

theorem encode_of_decode0 {nnn : Addr} {i : Instr} (h : decode0 nnn = some i) : encode i = wordNNN 0x0 nnn := by
  unfold decode0 at h
  split at h <;> cases h <;> rfl

theorem encode_of_decode8 {x y n : Nibble} {i : Instr} (h : decode8 x y n = some i) :
    encode i = wordXYN 0x8 x y n := by
  unfold decode8 at h
  split at h <;> cases h <;> rfl

theorem encode_of_decodeE {x : Nibble} {nn : Byte} {i : Instr} (h : decodeE x nn = some i) :
    encode i = wordXNN 0xE x nn := by
  unfold decodeE at h
  split at h <;> cases h <;> rfl

theorem encode_of_decodeF {x : Nibble} {nn : Byte} {i : Instr} (h : decodeF x nn = some i) :
    encode i = wordXNN 0xF x nn := by
  unfold decodeF at h
  split at h <;> cases h <;> rfl

/-- A category has one instruction or a map of its own; the word is its fields put together again. -/
theorem encode_of_decodeFields {c x y n : Nibble} {nn : Byte} {nnn : Addr} {w : Word} {i : Instr}
    (hNNN : wordNNN c nnn = w) (hXNN : wordXNN c x nn = w) (hXYN : wordXYN c x y n = w)
    (h : decodeFields c x y n nn nnn = some i) : encode i = w := by
  unfold decodeFields at h
  split at h
  case h_1 => exact (encode_of_decode0 h).trans hNNN
  case h_9 => exact (encode_of_decode8 h).trans hXYN
  case h_15 => exact (encode_of_decodeE h).trans hXNN
  case h_16 => exact (encode_of_decodeF h).trans hXNN
  case h_2 | h_3 | h_11 | h_12 => cases h; exact hNNN
  case h_4 | h_5 | h_7 | h_8 | h_13 => cases h; exact hXNN
  case h_14 => cases h; exact hXYN
  case h_6 | h_10 =>
    split at h
    · next hn => subst hn; cases h; exact hXYN
    · cases h
  case h_17 => cases h

theorem encode_of_decodeWord {w : Word} {i : Instr} (h : decodeWord w = some i) : encode i = w :=
  encode_of_decodeFields (wordNNN_fields w) (wordXNN_fields w) (wordXYN_fields w) h

end Sys2Proof

/-! ## What an instruction that completes keeps -/

namespace Sys2Proof
open Machine

/-- The locations only RESET or a fault may write. -/
def Machine.Loc.isControl : Loc → Prop
  | .quirks | .keySelect | .runState | .faultCause | .faultPc | .faultOp => True
  | _ => False

theorem Instr.not_mayWrite_of_isControl (i : Instr) (s : State) {l : Loc} (hl : l.isControl) : ¬ i.mayWrite s l := by
  cases l with
  | quirks | keySelect | runState | faultCause | faultPc | faultOp =>
    cases i <;> simp [Instr.mayWrite, Loc.isCell, Loc.isLowReg, State.isDataByte]
  | _ => exact hl.elim

theorem Instr.not_mayWrite_samples {i : Instr} (hi : ∀ x nn, i ≠ .opCXNN x nn) (s : State) :
    ¬ i.mayWrite s .samples := by
  cases i with
  | opCXNN x nn => exact absurd rfl (hi x nn)
  | _ => simp [Instr.mayWrite, Loc.isCell, Loc.isLowReg, State.isDataByte]

end Sys2Proof

namespace Sys2Proof.Machine

/-- What an instruction that completes, in RUN or not, keeps from `s` to `t`. -/
structure State.Completes (s t : State) : Prop where
  runState : t.runState = s.runState
  memWf : Memory.wf s.mem → Memory.wf t.mem
  spBound : s.sp.toNat ≤ 16 → t.sp.toNat ≤ 16

/-- An update of other fields than these keeps all three. -/
theorem State.Completes.of_eq {s t : State} (hr : t.runState = s.runState) (hm : t.mem = s.mem) (hp : t.sp = s.sp) :
    s.Completes t := ⟨hr, fun h => hm ▸ h, fun h => hp ▸ h⟩

theorem execDXYN_completes (x y n : Nibble) (s : State) : ∃ t, execDXYN x y n s = .next t ∧ s.Completes t := by
  unfold execDXYN
  split <;> exact ⟨_, rfl, .of_eq rfl rfl rfl⟩

theorem execFX1E_completes (x : Nibble) (s : State) : ∃ t, execFX1E x s = .next t ∧ s.Completes t := by
  refine ⟨_, rfl, ?_⟩
  split <;> exact .of_eq rfl rfl rfl

theorem execFX0A_completes (x : Nibble) (s : State) : ∃ t, execFX0A x s = .next t ∧ s.Completes t := by
  rcases execFX0A_cases x s with ⟨-, e⟩ | ⟨k, -, e⟩ <;> exact ⟨_, e, .of_eq rfl rfl rfl⟩

/-- An instruction underflows, overflows, meets a stack pointer out of its range, or completes. -/
theorem exec_cases (i : Instr) (s : State) :
    (i = .op00EE ∧ s.sp = 0 ∧ exec i s = .next (s.takeExecFault .stackUnderflow i)) ∨
    (∃ nnn, i = .op2NNN nnn ∧ s.sp = 16 ∧ exec i s = .next (s.takeExecFault .stackOverflow i)) ∨
    (16 < s.sp.toNat ∧ exec i s = .fault .stackPointerOutOfRange) ∨
    ∃ t, exec i s = .next t ∧ s.Completes t := by
  cases i with
  | op00EE =>
    rcases exec00EE_cases s with ⟨h, e⟩ | ⟨h, -, e⟩ | ⟨h, e⟩
    · exact .inl ⟨rfl, h, e⟩
    · exact .inr (.inr (.inr ⟨_, e, rfl, id, fun _ => h.le⟩))
    · exact .inr (.inr (.inl ⟨h, e⟩))
  | op2NNN nnn =>
    rcases exec2NNN_cases nnn s with ⟨h, e⟩ | ⟨h, e⟩ | ⟨h, e⟩
    · exact .inr (.inl ⟨nnn, rfl, h, e⟩)
    · refine .inr (.inr (.inr ⟨_, e, rfl, id, fun _ => ?_⟩))
      show (s.sp + 1).toNat ≤ 16
      bv_omega
    · exact .inr (.inr (.inl ⟨h, e⟩))
  | opDXYN x y n => exact .inr (.inr (.inr (execDXYN_completes x y n s)))
  | opFX1E x => exact .inr (.inr (.inr (execFX1E_completes x s)))
  | opFX0A x => exact .inr (.inr (.inr (execFX0A_completes x s)))
  | opFX33 x =>
    exact .inr (.inr (.inr ⟨_, rfl, by simp, State.storeBytes_wf _ _, fun h => by simpa using h⟩))
  | opFX55 x =>
    refine .inr (.inr (.inr ⟨_, rfl, by simp, fun h => ?_, fun h => by simpa using h⟩))
    rw [State.bumpIndex_mem]
    exact State.storeBytes_wf _ _ h
  | _ => exact .inr (.inr (.inr ⟨_, rfl, .of_eq (by simp) (by simp) (by simp)⟩))

/-- In RUN the matrix's frame holds of every instruction that completes. -/
theorem State.Completes.onlyChanges {i : Instr} {s t : State} (h : s.Completes t) (hrun : s.runState = .run)
    (he : exec i s = .next t) : s.onlyChanges t (i.mayWrite s) :=
  nothingIsWrittenBeyondTheAccessMatrix i s t hrun he (h.runState.trans hrun)

end Sys2Proof.Machine

/-! ## What a STEP comes to (40_step_cycle.md R95, 60_exceptions.md R211 to R213) -/

namespace Sys2Proof.Machine

/-- A fault of the execute phase leaves PC at the address of the fetch, as one of the fetch phase does. -/
theorem State.takeExecFault_advancePc (s : State) (c : FaultCause) (i : Instr) :
    s.advancePc.takeExecFault c i = s.takeFault c s.pc (some (encode i)) := by
  have hpc : s.pc + 2 - 2 = s.pc := BitVec.add_sub_cancel _ _
  unfold State.takeExecFault
  rw [State.advancePc_pc, hpc]
  rfl

/-- In RUN a STEP that finds an instruction runs it; every fault it takes is recorded truthfully. -/
theorem step_outcomes (s : State) :
    (s.runState = .halted ∧ step s = .next s) ∨
    (s.runState = .run ∧ ∃ c op, c ≠ .none ∧ (s.takeFault c s.pc op).FaultRecord ∧
      step s = .next (s.takeFault c s.pc op)) ∨
    (s.runState = .run ∧ 16 < s.sp.toNat ∧ step s = .fault .stackPointerOutOfRange) ∨
    (s.runState = .run ∧ ∃ w i t, s.fetch16 s.pc = some w ∧ decodeWord w = some i ∧
      exec i s.advancePc = .next t ∧ s.advancePc.Completes t ∧ step s = .next t) := by
  rcases step_cases s with ⟨hr, e⟩ | ⟨hr, hf, e⟩ | ⟨w, hr, hf, hd, e⟩ | ⟨w, i, hr, hf, hd, e⟩
  · exact .inl ⟨hr, e⟩
  · exact .inr (.inl ⟨hr, .fetchOutOfRange, _, nofun, ⟨rfl, (s.fetch16_eq_none s.pc).1 hf, rfl⟩, e⟩)
  · exact .inr (.inl ⟨hr, .unimplementedOpcode, _, nofun, ⟨rfl, hf.symm, w, rfl, hd⟩, e⟩)
  · have hw : some (encode i) = s.fetch16 s.pc := by rw [hf, encode_of_decodeWord hd]
    rcases exec_cases i s.advancePc with ⟨rfl, hsp, e'⟩ | ⟨nnn, rfl, hsp, e'⟩ | ⟨hsp, e'⟩ | ⟨t, e', hc⟩
    · rw [State.takeExecFault_advancePc] at e'
      exact .inr (.inl ⟨hr, .stackUnderflow, _, nofun, ⟨rfl, hw, hsp, rfl⟩, e.trans e'⟩)
    · rw [State.takeExecFault_advancePc] at e'
      exact .inr (.inl ⟨hr, .stackOverflow, _, nofun, ⟨rfl, hw, hsp, nnn, rfl⟩, e.trans e'⟩)
    · exact .inr (.inr (.inl ⟨hr, hsp, e.trans e'⟩))
    · exact .inr (.inr (.inr ⟨hr, w, i, t, hf, hd, e', hc, e.trans e'⟩))

/-! ## The invariant (10_state.md R34) -/

/-- In RUN the invariant says that no fault is recorded. -/
theorem State.Inv.noFault {s : State} (hs : s.Inv) (hrun : s.runState = .run) :
    s.faultCause = .none ∧ s.faultPc = 0 ∧ s.faultOp = none := by
  have hc : s.faultCause = .none := by
    by_contra hne
    exact absurd (hrun.symm.trans (hs.faultIffHalted.1 hne)) nofun
  have hrec := hs.faultRecord
  unfold State.FaultRecord at hrec
  rw [hc] at hrec
  exact ⟨hc, hrec⟩

/-- In RUN a change that leaves the control registers as they are has only memory and SP to account for. -/
theorem State.Inv.of_run {s t : State} (hs : s.Inv) (hrun : s.runState = .run)
    (hctl : ∀ l : Loc, l.isControl → s.sameAt t l) (hmem : Memory.wf t.mem) (hsp : t.sp.toNat ≤ 16) : t.Inv := by
  obtain ⟨hc, hp, ho⟩ := hs.noFault hrun
  have hr' : t.runState = .run := Eq.trans (hctl .runState trivial) hrun
  have hc' : t.faultCause = .none := Eq.trans (hctl .faultCause trivial) hc
  have hp' : t.faultPc = 0 := Eq.trans (hctl .faultPc trivial) hp
  have ho' : t.faultOp = none := Eq.trans (hctl .faultOp trivial) ho
  refine ⟨hmem, hsp, by simp [hr', hc'], ?_⟩
  unfold State.FaultRecord
  rw [hc']
  exact ⟨hp', ho'⟩

theorem State.Inv.takeFault {s : State} (hs : s.Inv) {c : FaultCause} {op : Option Word} (hc : c ≠ .none)
    (hrec : (s.takeFault c s.pc op).FaultRecord) : (s.takeFault c s.pc op).Inv :=
  ⟨hs.memWf, hs.spBound, by simp [hc], hrec⟩

theorem State.Completes.inv {i : Instr} {s t : State} (h : s.advancePc.Completes t) (hs : s.Inv)
    (hrun : s.runState = .run) (he : exec i s.advancePc = .next t) : t.Inv := by
  have hctl : ∀ l : Loc, l.isControl → s.advancePc.sameAt t l := fun l hl =>
    h.onlyChanges hrun he l (i.not_mayWrite_of_isControl _ hl)
  have hadv : ∀ l : Loc, l.isControl → s.sameAt s.advancePc l := fun l hl =>
    (State.onlyChanges.refl s (· = .pc)).setPc _ rfl l (by rintro rfl; exact hl)
  exact hs.of_run hrun (fun l hl => (hadv l hl).trans (hctl l hl)) (h.memWf hs.memWf) (h.spBound hs.spBound)

/-- Settles O15: with SP at most 16 no stack instruction meets the model's own stop. -/
theorem stepAlwaysAnswers : Obligations.StepAlwaysAnswers := by
  intro s hs
  rcases step_outcomes s with ⟨-, e⟩ | ⟨-, _, _, -, -, e⟩ | ⟨-, hsp, -⟩ | ⟨-, _, _, t, -, -, -, -, e⟩
  · exact ⟨s, e⟩
  · exact ⟨_, e⟩
  · exact absurd hs.spBound (by omega)
  · exact ⟨t, e⟩

/-- Settles O16, by the outcomes of a STEP. -/
theorem stepKeepsInvariant : Obligations.StepKeepsInvariant := by
  intro s t hs h
  rcases step_outcomes s with ⟨-, e⟩ | ⟨-, _, _, hc, hrec, e⟩ | ⟨-, -, e⟩ | ⟨hrun, _, _, _, -, -, he, hcomp, e⟩ <;>
    rw [e] at h <;> cases h
  · exact hs
  · exact hs.takeFault hc hrec
  · exact hcomp.inv hs hrun he

/-- Settles O17: nothing is listed, SP is 0 and no fault is recorded. -/
theorem resetMeetsInvariant : Obligations.ResetMeetsInvariant :=
  ⟨Memory.wf_reset, Nat.zero_le _, by decide, rfl, rfl⟩

/-- Settles O27: above 16 neither the test for an empty or full stack nor the bound of an entry is met. -/
theorem stackPointerOutOfRangeStops : Obligations.StackPointerOutOfRangeStops := by
  intro s nnn hsp
  constructor
  · rcases exec2NNN_cases nnn s with ⟨h, -⟩ | ⟨h, -⟩ | ⟨-, e⟩
    · rw [h] at hsp; exact absurd hsp (by decide)
    · omega
    · exact e
  · rcases exec00EE_cases s with ⟨h, -⟩ | ⟨h, -, -⟩ | ⟨-, e⟩
    · rw [h] at hsp; exact absurd hsp (by decide)
    · bv_omega
    · exact e

end Sys2Proof.Machine

/-! ## STEP with the random input as an argument (10_state.md R35, 40_step_cycle.md R105) -/

namespace Sys2Proof.Machine

theorem stepWith_of_halted (rand : Byte) {s : State} (hr : s.runState = .halted) : stepWith rand s = .next s := by
  simp [stepWith, State.fetchDecode, hr]

theorem stepWith_of_no_fetch (rand : Byte) {s : State} (hrun : s.runState = .run) (hf : s.fetch16 s.pc = none) :
    stepWith rand s = .next (s.takeFault .fetchOutOfRange s.pc none) := by
  simp [stepWith, State.fetchDecode, hrun, hf]

theorem stepWith_of_illegal (rand : Byte) {s : State} {w : Word} (hrun : s.runState = .run)
    (hf : s.fetch16 s.pc = some w) (hd : decodeWord w = none) :
    stepWith rand s = .next (s.takeFault .unimplementedOpcode s.pc (some w)) := by
  simp [stepWith, State.fetchDecode, hrun, hf, hd]

theorem stepWith_of_instr (rand : Byte) {s : State} {w : Word} {i : Instr} (hrun : s.runState = .run)
    (hf : s.fetch16 s.pc = some w) (hd : decodeWord w = some i) : stepWith rand s = execWith rand i s.advancePc := by
  simp [stepWith, State.fetchDecode, hrun, hf, hd]

/-- A STEP with the random input as an argument is `step`, or a CXNN that takes the argument. -/
theorem stepWith_eq_step_or (rand : Byte) (s : State) :
    stepWith rand s = step s ∨
    ∃ w x nn, s.runState = .run ∧ s.fetch16 s.pc = some w ∧ decodeWord w = some (.opCXNN x nn) ∧
      stepWith rand s = .next (s.advancePc.setV x (rand &&& nn)) := by
  unfold stepWith step
  rcases s.fetchDecode_cases with ⟨-, e⟩ | ⟨-, -, e⟩ | ⟨_, -, -, -, e⟩ | ⟨w, i, hrun, hf, hd, e⟩ <;> rw [e]
  · exact .inl rfl
  · exact .inl rfl
  · exact .inl rfl
  · cases i with
    | opCXNN x nn => exact .inr ⟨w, x, nn, hrun, hf, hd, rfl⟩
    | _ => exact .inl rfl

/-- No instruction but CXNN moves the model's own count. -/
theorem exec_samples {i : Instr} (hi : ∀ x nn, i ≠ .opCXNN x nn) {s t : State} (hrun : s.runState = .run)
    (h : exec i s = .next t) : t.samples = s.samples := by
  rcases exec_cases i s with ⟨-, -, e⟩ | ⟨_, -, -, e⟩ | ⟨-, e⟩ | ⟨u, e, hc⟩ <;> rw [e] at h <;> cases h
  · rfl
  · rfl
  · exact hc.onlyChanges hrun e .samples (Instr.not_mayWrite_samples hi s)

theorem exists_execWith_of_exec {i : Instr} {s t : State} (hrun : s.runState = .run) (h : exec i s = .next t) :
    ∃ rand, execWith rand i s = .next { t with samples := s.samples } := by
  by_cases hi : ∀ x nn, i ≠ .opCXNN x nn
  · exact ⟨0, by rw [execWith_of_ne hi, h, ← exec_samples hi hrun h]⟩
  · push Not at hi
    obtain ⟨x, nn, rfl⟩ := hi
    cases h
    exact ⟨s.randByte, rfl⟩

/-- Every next state of `step` is one of a STEP with some byte, but for the model's own count. -/
theorem exists_stepWith_of_step {s t : State} (h : step s = .next t) :
    ∃ rand, stepWith rand s = .next { t with samples := s.samples } := by
  unfold step at h
  unfold stepWith
  rcases s.fetchDecode_cases with ⟨-, e⟩ | ⟨-, -, e⟩ | ⟨_, -, -, -, e⟩ | ⟨_, i, hrun, -, -, e⟩ <;> rw [e] at h ⊢
  · cases h; exact ⟨0, rfl⟩
  · cases h; exact ⟨0, rfl⟩
  · cases h; exact ⟨0, rfl⟩
  · exact exists_execWith_of_exec (s := s.advancePc) hrun h

/-- Settles O60, by the two things a STEP with an argument can be; the free value is the byte of the last part. -/
theorem randomInputIsAnArgument : Obligations.RandomInputIsAnArgument := by
  refine ⟨fun rand s hno => ?_, fun rand s w x nn hrun hf hd => stepWith_of_instr rand hrun hf hd,
    fun s t => exists_stepWith_of_step⟩
  rcases stepWith_eq_step_or rand s with e | ⟨w, x, nn, -, hf, hd, -⟩
  · exact e
  · exact absurd hd (hno w x nn hf)

/-! ## Sequences of operations (40_step_cycle.md R90, R94) -/

/-- A sequence that ends in a next state went through one after its first operation. -/
theorem runOps_cons_eq_next {op : Op} {ops : List Op} {s t : State} (h : runOps (op :: ops) s = .next t) :
    ∃ u, applyOp op s = .next u ∧ runOps ops u = .next t := by
  unfold runOps at h
  cases e : applyOp op s with
  | next u => rw [e] at h; exact ⟨u, rfl, h⟩
  | fault r => rw [e] at h; cases h
  | refused r => rw [e] at h; cases h

theorem State.whenRun_cases (s t : State) : (s.runState = .run ∧ s.whenRun t = t) ∨ s.whenRun t = s := by
  cases h : s.runState with
  | run => exact .inl ⟨rfl, State.whenRun_run t h⟩
  | halted => exact .inr (State.whenRun_halted t h)

/-- LOAD_ROM copies an image that fits, in RUN, or does nothing (40_step_cycle.md R104). -/
theorem State.loadRom_cases (s : State) (rom : List Byte) :
    (s.runState = .run ∧ rom.length ≤ Config.romMax ∧
      s.loadRom rom = { s with mem := Memory.writeList rom Config.romBase s.mem }) ∨ s.loadRom rom = s := by
  unfold State.loadRom
  by_cases hl : rom.length ≤ Config.romMax
  · rw [if_pos hl]
    exact (s.whenRun_cases _).imp_left fun ⟨hrun, e⟩ => ⟨hrun, hl, e⟩
  · rw [if_neg hl]
    exact .inr ((s.whenRun_cases s).elim And.right id)

/-- Only memory, the timers and the keypad differ from `s` to `t`, and memory stays canonical. -/
def State.EnvironmentWrites (s t : State) : Prop :=
  { s with mem := t.mem, dt := t.dt, st := t.st, key := t.key } = t ∧ (Memory.wf s.mem → Memory.wf t.mem)

/-- What an operation other than RESET and STEP may do: nothing, or in RUN such writes. -/
def State.EnvironmentEffect (s t : State) : Prop := t = s ∨ (s.runState = .run ∧ s.EnvironmentWrites t)

theorem State.EnvironmentWrites.whenRun {s t : State} (h : s.EnvironmentWrites t) :
    s.EnvironmentEffect (s.whenRun t) := by
  rcases s.whenRun_cases t with ⟨hrun, e⟩ | e <;> rw [e]
  · exact .inr ⟨hrun, h⟩
  · exact .inl rfl

theorem State.environmentEffect_loadRom (s : State) (rom : List Byte) : s.EnvironmentEffect (s.loadRom rom) := by
  rcases s.loadRom_cases rom with ⟨hrun, -, e⟩ | e
  · exact .inr ⟨hrun, by rw [e], State.loadRom_wf rom⟩
  · exact .inl e

/-- An operation is a RESET, a STEP, or one that answers a next state of that kind. -/
theorem applyOp_cases (op : Op) (s : State) :
    (∃ p, op = .reset p) ∨ (∃ rand, op = .step rand) ∨ ∃ t, applyOp op s = .next t ∧ s.EnvironmentEffect t := by
  cases op with
  | reset p => exact .inl ⟨p, rfl⟩
  | step rand => exact .inr (.inl ⟨rand, rfl⟩)
  | loadRom rom => exact .inr (.inr ⟨_, rfl, s.environmentEffect_loadRom rom⟩)
  | tick | keyPress | keyRelease => exact .inr (.inr ⟨_, rfl, State.EnvironmentWrites.whenRun ⟨rfl, id⟩⟩)

/-! ### The invariant over every sequence -/

theorem State.EnvironmentWrites.inv {s t : State} (h : s.EnvironmentWrites t) (hs : s.Inv) (hrun : s.runState = .run) :
    t.Inv := by
  obtain ⟨e, hmem⟩ := h
  have hwf := hmem hs.memWf
  rw [← e] at hwf ⊢
  refine hs.of_run hrun (fun l hl => ?_) hwf hs.spBound
  cases l with
  | quirks | keySelect | runState | faultCause | faultPc | faultOp => rfl
  | _ => exact hl.elim

theorem State.resetWith_inv {p : Params} (s : State) (hp : fontFits p.font = true) : (s.resetWith p).Inv :=
  ⟨State.resetWith_wf s hp, Nat.zero_le _, by simp [State.resetWith, State.reset], rfl, rfl⟩

/-- A CXNN that takes the byte `rand` leaves what a 6XNN of `rand &&& nn` leaves; any other STEP is `step`. -/
theorem stepWith_inv (rand : Byte) {s : State} (hs : s.Inv) : ∃ t, stepWith rand s = .next t ∧ t.Inv := by
  rcases stepWith_eq_step_or rand s with e | ⟨_, x, nn, hrun, -, -, e⟩
  · obtain ⟨t, ht⟩ := stepAlwaysAnswers s hs
    exact ⟨t, e.trans ht, stepKeepsInvariant s t hs ht⟩
  · have hcomp : s.advancePc.Completes (s.advancePc.setV x (rand &&& nn)) := .of_eq rfl rfl rfl
    exact ⟨_, e, hcomp.inv (i := .op6XNN x (rand &&& nn)) hs hrun rfl⟩

theorem applyOp_inv {op : Op} {s : State} (hfont : ∀ p, op = .reset p → fontFits p.font = true) (hs : s.Inv) :
    ∃ t, applyOp op s = .next t ∧ t.Inv := by
  rcases applyOp_cases op s with ⟨p, rfl⟩ | ⟨rand, rfl⟩ | ⟨t, e, rfl | ⟨hrun, hw⟩⟩
  · exact ⟨_, rfl, s.resetWith_inv (hfont p rfl)⟩
  · exact stepWith_inv rand hs
  · exact ⟨t, e, hs⟩
  · exact ⟨t, e, hw.inv hs hrun⟩

/-- Settles O18, by induction on the sequence. -/
theorem everyRunKeepsInvariant : Obligations.EveryRunKeepsInvariant := by
  intro ops
  induction ops with
  | nil => exact fun s _ hs => ⟨s, rfl, hs⟩
  | cons op ops ih =>
    intro s hfont hs
    obtain ⟨u, hu, hinv⟩ := applyOp_inv (fun p hp => hfont p (hp ▸ List.mem_cons_self)) hs
    rw [runOps_cons_next hu]
    exact ih u (fun p hp => hfont p (List.mem_cons_of_mem _ hp)) hinv

/-! ### The configuration (10_state.md R31) -/

/-- The configuration RESET latched is the same in both states. -/
def State.SameConfig (s t : State) : Prop := t.quirks = s.quirks ∧ t.keySelect = s.keySelect

theorem step_sameConfig {s t : State} (h : step s = .next t) : s.SameConfig t := by
  rcases step_outcomes s with ⟨-, e⟩ | ⟨-, _, _, -, -, e⟩ | ⟨-, -, e⟩ | ⟨hrun, _, i, _, -, -, he, hcomp, e⟩ <;>
    rw [e] at h <;> cases h
  · exact ⟨rfl, rfl⟩
  · exact ⟨rfl, rfl⟩
  · exact ⟨hcomp.onlyChanges hrun he .quirks (i.not_mayWrite_of_isControl _ trivial),
      hcomp.onlyChanges hrun he .keySelect (i.not_mayWrite_of_isControl _ trivial)⟩

theorem applyOp_sameConfig {op : Op} (hop : ∀ p, op ≠ .reset p) {s t : State} (h : applyOp op s = .next t) :
    s.SameConfig t := by
  rcases applyOp_cases op s with ⟨p, rfl⟩ | ⟨rand, rfl⟩ | ⟨u, e, rfl | ⟨-, hw, -⟩⟩
  · exact absurd rfl (hop p)
  · rcases stepWith_eq_step_or rand s with e | ⟨_, _, _, -, -, -, e⟩
    · exact step_sameConfig (e ▸ h)
    · cases e.symm.trans h; exact ⟨rfl, rfl⟩
  · cases e.symm.trans h; exact ⟨rfl, rfl⟩
  · cases e.symm.trans h; rw [← hw]; exact ⟨rfl, rfl⟩

/-- Settles O56, by induction on the sequence. -/
theorem configurationNeverChanges : Obligations.ConfigurationNeverChanges := by
  intro ops
  induction ops with
  | nil => rintro s t - h; cases h; exact ⟨rfl, rfl⟩
  | cons op ops ih =>
    intro s t hops h
    obtain ⟨u, hu, ht⟩ := runOps_cons_eq_next h
    obtain ⟨hq, hk⟩ := applyOp_sameConfig (hops op List.mem_cons_self) hu
    obtain ⟨hq', hk'⟩ := ih u t (fun o ho => hops o (List.mem_cons_of_mem _ ho)) ht
    exact ⟨hq'.trans hq, hk'.trans hk⟩

end Sys2Proof.Machine

/-! ## PC after every instruction (10_state.md R24) -/

namespace Sys2Proof.Machine

theorem exec00EE_pc {s t : State} (h : exec00EE s.advancePc = .next t) (ht : t.runState = .run) :
    t.pc = Instr.op00EE.pcAfter s := by
  rcases exec00EE_cases s.advancePc with ⟨-, e⟩ | ⟨hsp, -, e⟩ | ⟨-, e⟩ <;> rw [e] at h <;> cases h
  · cases ht
  · have hpop : Instr.op00EE.pcAfter s = s.stack[(s.sp - 1).toNat]'hsp := dif_pos hsp
    exact hpop.symm

theorem exec2NNN_pc {nnn : Addr} {s t : State} (h : exec2NNN nnn s = .next t) (ht : t.runState = .run) :
    t.pc = nnn := by
  rcases exec2NNN_cases nnn s with ⟨-, e⟩ | ⟨_, e⟩ | ⟨-, e⟩ <;> rw [e] at h <;> cases h
  · cases ht
  · rfl

/-- FX0A goes back exactly where no key is down, whatever the table selects (45_keypad_timers.md R193). -/
theorem execFX0A_pc {x : Nibble} {s t : State} (h : execFX0A x s.advancePc = .next t) :
    t.pc = (Instr.opFX0A x).pcAfter s := by
  have hnone : selectKey s.keySelect s.key = none ↔ lowestKey s.key = none :=
    (selectKey_eq_none _ _).trans (lowestKey_eq_none _).symm
  have hpc : s.pc + 2 - 2 = s.pc := BitVec.add_sub_cancel _ _
  show t.pc = if (lowestKey s.key).isSome then s.pc + 2 else s.pc
  rcases execFX0A_cases x s.advancePc with ⟨hk, e⟩ | ⟨k, hk, e⟩ <;> rw [e] at h <;> cases h
  · rw [hnone.1 hk]; exact hpc
  · have hne : lowestKey s.key ≠ none := fun hn => absurd (hk.symm.trans (hnone.2 hn)) nofun
    rw [if_pos (Option.isSome_iff_ne_none.2 hne)]; rfl

theorem add_setWidth_byte (a : Addr) (b : Byte) : a + b.setWidth 12 = BitVec.ofNat 12 (a.toNat + b.toNat) := by
  bv_omega

/-- Every instruction that stays in RUN leaves PC where the table says, the fetch's increment included. -/
theorem exec_pc {i : Instr} {s t : State} (hrun : s.runState = .run) (h : exec i s.advancePc = .next t)
    (ht : t.runState = .run) : t.pc = i.pcAfter s := by
  have frame := nothingIsWrittenBeyondTheAccessMatrix i s.advancePc t hrun h ht .pc
  cases i with
  | op00EE => exact exec00EE_pc h ht
  | op2NNN nnn => exact exec2NNN_pc h ht
  | opFX0A x => exact execFX0A_pc h
  | op1NNN => cases h; rfl
  | opBNNN nnn => cases h; exact add_setWidth_byte nnn _
  | op3XNN | op4XNN | op5XY0 | op9XY0 | opEX9E | opEXA1 => cases h; exact State.skipIf_pc _ _
  | opFX65 => exact frame (by simp [Instr.mayWrite, Loc.isLowReg])
  | _ => exact frame (by simp [Instr.mayWrite, Loc.isCell, State.isDataByte])

/-- Settles O30: a fault leaves PC at the fetch address, and what completes is in RUN. -/
theorem pcAfterEveryInstruction : Obligations.PcAfterEveryInstruction := by
  intro s t hrun h
  rcases step_outcomes s with ⟨hr, -⟩ | ⟨-, _, _, -, -, e⟩ | ⟨-, -, e⟩ | ⟨-, w, i, u, hf, hd, he, hcomp, e⟩
  · exact absurd (hrun.symm.trans hr) nofun
  · cases e.symm.trans h
    exact ⟨fun _ _ _ _ => nofun, fun _ => rfl⟩
  · cases e.symm.trans h
  · cases e.symm.trans h
    refine ⟨fun w' i' hf' hd' ht => ?_, fun ht => ?_⟩
    · cases hf.symm.trans hf'
      cases hd.symm.trans hd'
      exact exec_pc hrun he ht
    · exact absurd ((hcomp.runState.trans hrun).symm.trans ht) nofun

/-! ## RESET (70_reset_and_hazards.md R240) -/

/-- Outside the font the reset contents of memory are zero. -/
theorem resetByte_of_not_font {a : Nat} (h : ¬ (0x050 ≤ a ∧ a < 0x0A0)) : Config.resetByte a = 0 := if_neg h

theorem State.memRead_resetWith {p : Params} (hp : fontFits p.font = true) (s : State) (a : Addr) :
    (s.resetWith p).memRead a =
      if 0x050 ≤ a.toNat ∧ a.toNat < 0x0A0 then p.font.getD (a.toNat - 0x050) 0 else 0 := by
  have hl : p.font.length = 80 := by simpa [fontFits] using hp
  have h := Memory.read_writeList p.font Config.fontBase [] a.toNat Memory.wf_reset (by rw [hl]; decide)
  rw [hl] at h
  refine h.trans ?_
  split
  · rfl
  · next hout => exact resetByte_of_not_font hout

/-- Settles O52: memory is the FONT written to the reset memory, and every other field is given. -/
theorem resetEstablishesTheResetState : Obligations.ResetEstablishesTheResetState := by
  intro p s hp
  have hv : ∀ r, (s.resetWith p).getV r = 0 := fun r => Vector.getElem_replicate _
  have hstack : ∀ j : Nibble, (s.resetWith p).stack[j.toNat]'j.isLt = 0 := fun j => Vector.getElem_replicate _
  have hcells : ∀ r c, (s.resetWith p).display r c = false := fun r c =>
    (State.display_eq_pixel _ r c).trans (pixel_clear _ _)
  have hkeys : ∀ k, keyDown (s.resetWith p).key k = false := fun k => Vector.getElem_replicate _
  exact ⟨s.resetWith p, rfl, State.memRead_resetWith hp s, hv, rfl, rfl, rfl, hstack, rfl, rfl, hcells, hkeys, rfl,
    rfl, rfl, rfl, rfl, rfl, rfl, State.resetWith_wf s hp⟩

end Sys2Proof.Machine

/-! ## Reads beyond the matrix have no influence (10_state.md R36)

`SameEffect s t s' t'` says that going from `s'` to `t'` does what going from `s` to `t` does. Each named update with
equal operands has the same effect on any two states, and effects compose; a meaning is a chain of such updates. -/

namespace Sys2Proof.Machine

/-- Every location holds the same in both results or is unchanged in both. -/
def SameEffect (s t s' t' : State) : Prop := ∀ l, t.sameAt t' l ∨ (s.sameAt t l ∧ s'.sameAt t' l)

theorem State.sameAt.symm {s t : State} {l : Loc} (h : s.sameAt t l) : t.sameAt s l := by
  cases l <;> exact Eq.symm h

theorem SameEffect.refl (s s' : State) : SameEffect s s s' s' :=
  fun l => .inr ⟨State.onlyChanges.refl s (fun _ => False) l id, State.onlyChanges.refl s' (fun _ => False) l id⟩

theorem SameEffect.trans {s t u s' t' u' : State} (h : SameEffect s t s' t') (h' : SameEffect t u t' u') :
    SameEffect s u s' u' := by
  intro l
  rcases h' l with same | ⟨hu, hu'⟩
  · exact .inl same
  · rcases h l with same | ⟨ht, ht'⟩
    · exact .inl (hu.symm.trans (same.trans hu'))
    · exact .inr ⟨ht.trans hu, ht'.trans hu'⟩

/-- Two frames of the same locations have the same effect where those locations end up the same. -/
theorem SameEffect.of_frames {s t s' t' : State} {w : Loc → Prop} (h : s.onlyChanges t w) (h' : s'.onlyChanges t' w)
    (hw : ∀ l, w l → t.sameAt t' l) : SameEffect s t s' t' := by
  intro l
  by_cases hl : w l
  · exact .inl (hw l hl)
  · exact .inr ⟨h l hl, h' l hl⟩

/-- The form in which a meaning's effect settles its case. -/
theorem SameEffect.of_next {s t u s' u' : State} (e : SameEffect s u s' u') (h : (.next u : Result) = .next t) :
    ∃ t', (.next u' : Result) = .next t' ∧ SameEffect s t s' t' := by
  cases h; exact ⟨u', rfl, e⟩

section
variable {s t s' t' : State}

/-- One more update, of one location that ends up the same. -/
theorem SameEffect.update (h : SameEffect s t s' t') {u u' : State} {l : Loc} (hu : t.onlyChanges u (· = l))
    (hu' : t'.onlyChanges u' (· = l)) (hl : u.sameAt u' l) : SameEffect s u s' u' :=
  h.trans (.of_frames hu hu' fun _ e => e ▸ hl)

theorem SameEffect.setV (h : SameEffect s t s' t') (r : Nibble) {b b' : Byte} (hb : b' = b) :
    SameEffect s (t.setV r b) s' (t'.setV r b') :=
  h.update (l := .v r) ((State.onlyChanges.refl t _).setV b rfl) ((State.onlyChanges.refl t' _).setV b' rfl)
    (by simpa [State.sameAt] using hb)

theorem SameEffect.setPc (h : SameEffect s t s' t') {p p' : Addr} (hp : p' = p) :
    SameEffect s (t.setPc p) s' (t'.setPc p') :=
  h.update (l := .pc) ((State.onlyChanges.refl t _).setPc p rfl) ((State.onlyChanges.refl t' _).setPc p' rfl) hp

theorem SameEffect.setI (h : SameEffect s t s' t') {a a' : Word} (ha : a' = a) :
    SameEffect s (t.setI a) s' (t'.setI a') :=
  h.update (l := .i) ((State.onlyChanges.refl t _).setI a rfl) ((State.onlyChanges.refl t' _).setI a' rfl) ha

theorem SameEffect.setDt (h : SameEffect s t s' t') {b b' : Byte} (hb : b' = b) :
    SameEffect s (t.setDt b) s' (t'.setDt b') :=
  h.update (l := .dt) ((State.onlyChanges.refl t _).setDt b rfl) ((State.onlyChanges.refl t' _).setDt b' rfl) hb

theorem SameEffect.setSt (h : SameEffect s t s' t') {b b' : Byte} (hb : b' = b) :
    SameEffect s (t.setSt b) s' (t'.setSt b') :=
  h.update (l := .st) ((State.onlyChanges.refl t _).setSt b rfl) ((State.onlyChanges.refl t' _).setSt b' rfl) hb

theorem SameEffect.setSp (h : SameEffect s t s' t') {p p' : BitVec 5} (hp : p' = p) :
    SameEffect s { t with sp := p } s' { t' with sp := p' } :=
  h.update (l := .sp) ((State.onlyChanges.refl t _).setSp p rfl) ((State.onlyChanges.refl t' _).setSp p' rfl) hp

theorem SameEffect.takeRand (h : SameEffect s t s' t') (hn : t'.samples = t.samples) :
    SameEffect s t.takeRand s' t'.takeRand :=
  h.update (l := .samples) ((State.onlyChanges.refl t _).takeRand rfl) ((State.onlyChanges.refl t' _).takeRand rfl)
    (congrArg (· + 1) hn)

/-- A push at the same index; that entry holds the address pushed in both. -/
theorem SameEffect.setStack (h : SameEffect s t s' t') (j : Nibble) {a a' : Addr} (ha : a' = a) :
    SameEffect s { t with stack := t.stack.set j.toNat a j.isLt } s'
      { t' with stack := t'.stack.set j.toNat a' j.isLt } :=
  h.update (l := .stackAt j) ((State.onlyChanges.refl t _).setStack a rfl)
    ((State.onlyChanges.refl t' _).setStack a' rfl) (by simpa [State.sameAt] using ha)

/-- In canonical memory the byte stored reads as stored (20_memory.md R51). -/
theorem SameEffect.memWrite (h : SameEffect s t s' t') (hm : Memory.wf t.mem) (hm' : Memory.wf t'.mem) {a a' : Addr}
    {b b' : Byte} (ha : a' = a) (hb : b' = b) : SameEffect s (t.memWrite a b) s' (t'.memWrite a' b') := by
  subst ha
  exact h.update (l := .byte a') ((State.onlyChanges.refl t _).memWrite b rfl)
    ((State.onlyChanges.refl t' _).memWrite b' rfl)
    (by simpa [State.sameAt, State.memRead_memWrite hm, State.memRead_memWrite hm'] using hb)

theorem SameEffect.setFb (h : SameEffect s t s' t') {fb fb' : Framebuffer} (hfb : fb' = fb) :
    SameEffect s { t with fb := fb } s' { t' with fb := fb' } := by
  subst hfb
  refine h.trans (.of_frames (w := Loc.isCell) ((State.onlyChanges.refl t _).setFb _ fun _ _ => trivial)
    ((State.onlyChanges.refl t' _).setFb _ fun _ _ => trivial) fun l hl => ?_)
  cases l with
  | cell r c => rfl
  | _ => exact hl.elim

/-- A fault taken at the same address writes the same four registers and PC. -/
theorem SameEffect.takeFault (s s' : State) (c : FaultCause) (p : Addr) (op : Option Word) :
    SameEffect s (s.takeFault c p op) s' (s'.takeFault c p op) := by
  intro l
  cases l with
  | pc | runState | faultCause | faultPc | faultOp => exact .inl rfl
  | _ => exact .inr ⟨rfl, rfl⟩

theorem SameEffect.setFlag (h : SameEffect s t s' t') {f f' : Bool} (hf : f' = f) :
    SameEffect s (t.setFlag f) s' (t'.setFlag f') := h.setV vf (congrArg flagByte hf)

theorem SameEffect.setResultAndFlag (h : SameEffect s t s' t') (x : Nibble) {b b' : Byte} {f f' : Bool} (hb : b' = b)
    (hf : f' = f) : SameEffect s (t.setResultAndFlag x b f) s' (t'.setResultAndFlag x b' f') :=
  (h.setV x hb).setFlag hf

theorem SameEffect.skipIf (h : SameEffect s t s' t') (hpc : t'.pc = t.pc) {b b' : Bool} (hb : b' = b) :
    SameEffect s (t.skipIf b) s' (t'.skipIf b') := by
  subst hb
  cases b'
  · exact h
  · exact h.setPc (congrArg (· + 2) hpc)

theorem SameEffect.bumpIndex (h : SameEffect s t s' t') (hq : t'.quirks = t.quirks) (hi : t'.i = t.i) (x : Nibble) :
    SameEffect s (t.bumpIndex x) s' (t'.bumpIndex x) := by
  unfold State.bumpIndex
  rw [hq, hi]
  split
  · exact h.setI rfl
  · exact h

theorem SameEffect.storeBytes (hm : Memory.wf s.mem) (hm' : Memory.wf s'.mem) (hi : s'.i = s.i) {f f' : Nat → Byte}
    {n : Nat} (hf : ∀ k < n, f' k = f k) : SameEffect s (s.storeBytes f n) s' (s'.storeBytes f' n) := by
  induction n with
  | zero => exact .refl s s'
  | succ n ih =>
    exact (ih fun k hk => hf k (by omega)).memWrite (State.storeBytes_wf f n hm) (State.storeBytes_wf f' n hm')
      (State.ea_congr hi n) (hf n (by omega))

theorem SameEffect.loadRegs {n : Nat} (hb : ∀ k < n, s'.memRead (s'.ea k) = s.memRead (s.ea k)) :
    SameEffect s (s.loadRegs n) s' (s'.loadRegs n) := by
  induction n with
  | zero => exact .refl s s'
  | succ n ih => exact (ih fun k hk => hb k (by omega)).setV _ (hb n (by omega))

end

/-! What the meanings read, from the locations that agree. -/

theorem State.fb_congr {s s' : State} (h : ∀ r c, s'.display r c = s.display r c) : s'.fb = s.fb := by
  refine Framebuffer.ext_pixel fun r hr c hc => ?_
  have := h (BitVec.ofNat 5 r) (BitVec.ofNat 6 c)
  simpa [State.display_eq_pixel, Nat.mod_eq_of_lt hr, Nat.mod_eq_of_lt hc] using this

theorem State.key_congr {s s' : State} (h : ∀ k, keyDown s'.key k = keyDown s.key k) : s'.key = s.key :=
  keyDown_injective (funext h)

/-- Only the first n rows of a sprite are drawn. -/
theorem Canvas.drawRows_congr (d : Canvas) {rows rows' : Nat → Byte} (y0 x0 : Nat) {n : Nat}
    (h : ∀ k < n, rows' k = rows k) : d.drawRows rows' y0 x0 n = d.drawRows rows y0 x0 n := by
  induction n with
  | zero => rfl
  | succ n ih => rw [Canvas.drawRows, Canvas.drawRows, ih fun k hk => h k (by omega), h n (by omega)]

theorem State.drawSprite_congr {s s' : State} {x y n : Nibble} (hfb : s'.fb = s.fb) (hx : s'.getV x = s.getV x)
    (hy : s'.getV y = s.getV y) (hrows : ∀ k < n.toNat, s'.spriteRow k = s.spriteRow k) :
    s'.drawSprite x y n = s.drawSprite x y n := by
  unfold State.drawSprite
  rw [hfb, hx, hy]
  exact Canvas.drawRows_congr _ _ _ hrows

/-- A data byte the matrix admits: its address is computed from the I both states hold (20_memory.md R54). -/
theorem memRead_ea_congr {s s' : State} {n k : Nat} (hi : s'.i = s.i) (hk : k < n)
    (h : ∀ l, s.isDataByte n l → s.sameAt s' l) : s'.memRead (s'.ea k) = s.memRead (s.ea k) := by
  rw [State.ea_congr hi]
  exact h (.byte (s.ea k)) ⟨k, hk, rfl⟩

theorem State.shiftSource_congr {s s' : State} {x y : Nibble} (hq : s'.quirks = s.quirks)
    (hv : s'.getV (if s.quirks.shiftUsesVy then y else x) = s.getV (if s.quirks.shiftUsesVy then y else x)) :
    s'.shiftSource x y = s.shiftSource x y := by
  unfold State.shiftSource
  rw [hq]
  split at hv <;> simp_all

theorem State.jumpOffset_congr {s s' : State} {nnn : Addr} (hq : s'.quirks = s.quirks)
    (hv : s'.getV (if s.quirks.jumpOffsetUsesVx then jumpRegister nnn else 0) =
      s.getV (if s.quirks.jumpOffsetUsesVx then jumpRegister nnn else 0)) :
    s'.jumpOffset nnn = s.jumpOffset nnn := by
  unfold State.jumpOffset
  rw [hq]
  split at hv <;> simp_all

/-! The instructions whose meaning branches. -/

theorem SameEffect.takeExecFault {s s' : State} (hpc : s'.pc = s.pc) (c : FaultCause) (i : Instr) :
    SameEffect s (s.takeExecFault c i) s' (s'.takeExecFault c i) := by
  unfold State.takeExecFault
  rw [hpc]
  exact .takeFault s s' c _ _

/-- 00EE in two states with one SP underflows in both, or pops the entry SP names in both. -/
theorem exec00EE_sameEffect {s s' t : State} (hpc : s'.pc = s.pc)
    (hr : ∀ l, Instr.op00EE.mayRead s l → s.sameAt s' l) (h : exec00EE s = .next t) :
    ∃ t', exec00EE s' = .next t' ∧ SameEffect s t s' t' := by
  have hsp : s'.sp = s.sp := hr .sp (.inl rfl)
  rcases exec00EE_cases s with ⟨h0, e⟩ | ⟨hlt, hne, e⟩ | ⟨-, e⟩ <;> rw [e] at h
  · have e' : exec00EE s' = .next (s'.takeExecFault .stackUnderflow .op00EE) := if_pos (hsp.trans h0)
    rw [e']
    exact (SameEffect.takeExecFault hpc _ _).of_next h
  · have hlt' : (s'.sp - 1).toNat < 16 := hsp ▸ hlt
    have e' : exec00EE s' = .next { s' with sp := s'.sp - 1, pc := s'.stack[(s'.sp - 1).toNat] } :=
      (if_neg (hsp ▸ hne)).trans (dif_pos hlt')
    have hj : ((s.sp - 1).setWidth 4).toNat = (s.sp - 1).toNat := by rw [BitVec.toNat_setWidth]; omega
    have hentry : s'.stack[(s'.sp - 1).toNat] = s.stack[(s.sp - 1).toNat] := by
      have := hr (.stackAt ((s.sp - 1).setWidth 4)) (.inr rfl)
      simpa only [State.sameAt, hj, hsp] using this
    rw [e']
    exact (((SameEffect.refl s s').setSp (congrArg (· - 1) hsp)).setPc hentry).of_next h
  · cases h

/-- 2NNN in two states with one SP overflows in both, or pushes the one PC at the one index in both. -/
theorem exec2NNN_sameEffect {nnn : Addr} {s s' t : State} (hpc : s'.pc = s.pc)
    (hr : ∀ l, (Instr.op2NNN nnn).mayRead s l → s.sameAt s' l) (h : exec2NNN nnn s = .next t) :
    ∃ t', exec2NNN nnn s' = .next t' ∧ SameEffect s t s' t' := by
  have hsp : s'.sp = s.sp := hr .sp rfl
  rcases exec2NNN_cases nnn s with ⟨h16, e⟩ | ⟨hlt, e⟩ | ⟨-, e⟩ <;> rw [e] at h
  · have e' : exec2NNN nnn s' = .next (s'.takeExecFault .stackOverflow (.op2NNN nnn)) := if_pos (hsp.trans h16)
    rw [e']
    exact (SameEffect.takeExecFault hpc _ _).of_next h
  · have hne : s.sp ≠ 16 := fun e => by rw [e] at hlt; exact absurd hlt (by decide)
    have hlt' : s'.sp.toNat < 16 := hsp ▸ hlt
    have e' : exec2NNN nnn s' =
        .next { s' with stack := s'.stack.set s'.sp.toNat s'.pc hlt', sp := s'.sp + 1, pc := nnn } :=
      (if_neg (hsp ▸ hne)).trans (dif_pos hlt')
    have hj : (s.sp.setWidth 4).toNat = s.sp.toNat := by rw [BitVec.toNat_setWidth]; omega
    have push := (SameEffect.refl s s').setStack (s.sp.setWidth 4) hpc
    simp only [hj] at push
    rw [e']
    simp only [hsp]
    exact ((push.setSp (p := s.sp + 1) rfl).setPc (p := nnn) rfl).of_next h
  · cases h

theorem execDXYN_sameEffect {x y n : Nibble} {s s' t : State}
    (hr : ∀ l, (Instr.opDXYN x y n).mayRead s l → s.sameAt s' l) (h : execDXYN x y n s = .next t) :
    ∃ t', execDXYN x y n s' = .next t' ∧ SameEffect s t s' t' := by
  have hx : s'.getV x = s.getV x := hr (.v x) (.inl rfl)
  have hy : s'.getV y = s.getV y := hr (.v y) (.inr (.inl rfl))
  have hi : s'.i = s.i := hr .i (.inr (.inr (.inl rfl)))
  have hfb : s'.fb = s.fb := State.fb_congr fun r c => hr (.cell r c) (.inr (.inr (.inr (.inr trivial))))
  have hrows : ∀ k < n.toNat, s'.spriteRow k = s.spriteRow k := fun k hk =>
    memRead_ea_congr hi hk fun l hl => hr l (.inr (.inr (.inr (.inl hl))))
  have hdraw := State.drawSprite_congr hfb hx hy hrows
  unfold execDXYN at h ⊢
  split at h
  · next hn =>
    rw [if_pos hn]
    exact (SameEffect.refl s s').of_next h
  · next hn =>
    rw [if_neg hn]
    exact (((SameEffect.refl s s').setFb (congrArg Canvas.fb hdraw)).setFlag (congrArg Canvas.hit hdraw)).of_next h

theorem execFX1E_sameEffect {x : Nibble} {s s' t : State}
    (hr : ∀ l, (Instr.opFX1E x).mayRead s l → s.sameAt s' l) (h : execFX1E x s = .next t) :
    ∃ t', execFX1E x s' = .next t' ∧ SameEffect s t s' t' := by
  have hx : s'.getV x = s.getV x := hr (.v x) (.inl rfl)
  have hi : s'.i = s.i := hr .i (.inr (.inl rfl))
  have hq : s'.quirks = s.quirks := hr .quirks (.inr (.inr rfl))
  have hsum := (SameEffect.refl s s').setI (a := s.i + (s.getV x).setWidth 16) rfl
  unfold execFX1E at h ⊢
  simp only [hx, hi, hq]
  split at h
  · next hover =>
    rw [if_pos hover]
    exact (hsum.setFlag rfl).of_next h
  · next hover =>
    rw [if_neg hover]
    exact hsum.of_next h

theorem execFX0A_sameEffect {x : Nibble} {s s' t : State} (hpc : s'.pc = s.pc)
    (hr : ∀ l, (Instr.opFX0A x).mayRead s l → s.sameAt s' l) (h : execFX0A x s = .next t) :
    ∃ t', execFX0A x s' = .next t' ∧ SameEffect s t s' t' := by
  have hk : s'.key = s.key := State.key_congr fun k => hr (.key k) (.inl trivial)
  have hs : s'.keySelect = s.keySelect := hr .keySelect (.inr rfl)
  unfold execFX0A at h ⊢
  rw [hk, hs]
  split at h
  · exact ((SameEffect.refl s s').setPc (congrArg (· - 2) hpc)).of_next h
  · exact ((SameEffect.refl s s').setV x rfl).of_next h

theorem execFX55_sameEffect {x : Nibble} {s s' t : State} (hm : Memory.wf s.mem) (hm' : Memory.wf s'.mem)
    (hr : ∀ l, (Instr.opFX55 x).mayRead s l → s.sameAt s' l) (h : execFX55 x s = .next t) :
    ∃ t', execFX55 x s' = .next t' ∧ SameEffect s t s' t' := by
  have hi : s'.i = s.i := hr .i (.inr (.inl rfl))
  have hq : s'.quirks = s.quirks := hr .quirks (.inr (.inr rfl))
  have hregs : ∀ k < x.toNat + 1, s'.getV (BitVec.ofNat 4 k) = s.getV (BitVec.ofNat 4 k) := fun k hk =>
    hr (.v (BitVec.ofNat 4 k)) (.inl (show (BitVec.ofNat 4 k).toNat < x.toNat + 1 by
      rw [BitVec.toNat_ofNat]; omega))
  exact ((SameEffect.storeBytes hm hm' hi hregs).bumpIndex (by simpa using hq) (by simpa using hi) x).of_next h

theorem execFX65_sameEffect {x : Nibble} {s s' t : State}
    (hr : ∀ l, (Instr.opFX65 x).mayRead s l → s.sameAt s' l) (h : execFX65 x s = .next t) :
    ∃ t', execFX65 x s' = .next t' ∧ SameEffect s t s' t' := by
  have hi : s'.i = s.i := hr .i (.inr (.inl rfl))
  have hq : s'.quirks = s.quirks := hr .quirks (.inr (.inr rfl))
  have hbytes : ∀ k < x.toNat + 1, s'.memRead (s'.ea k) = s.memRead (s.ea k) := fun k hk =>
    memRead_ea_congr hi hk fun l hl => hr l (.inl hl)
  exact ((SameEffect.loadRegs hbytes).bumpIndex (by simpa using hq) (by simpa using hi) x).of_next h

/-- Settles O58: each meaning is a chain of updates whose operands the two states agree on. -/
theorem nothingIsReadBeyondTheAccessMatrix : Obligations.NothingIsReadBeyondTheAccessMatrix := by
  intro i s s' t hm hm' hpc hr h
  have same : SameEffect s s s' s' := .refl s s'
  cases i with
  | op00E0 => exact (same.setFb rfl).of_next h
  | op00EE => exact exec00EE_sameEffect hpc hr h
  | op1NNN => exact (same.setPc rfl).of_next h
  | op2NNN nnn => exact exec2NNN_sameEffect hpc hr h
  | op3XNN x | op4XNN x =>
    have hx : s'.getV x = s.getV x := hr (.v x) rfl
    exact (same.skipIf hpc (by rw [hx])).of_next h
  | op5XY0 x y | op9XY0 x y =>
    have hx : s'.getV x = s.getV x := hr (.v x) (.inl rfl)
    have hy : s'.getV y = s.getV y := hr (.v y) (.inr rfl)
    exact (same.skipIf hpc (by rw [hx, hy])).of_next h
  | op6XNN x => exact (same.setV x rfl).of_next h
  | op7XNN x =>
    have hx : s'.getV x = s.getV x := hr (.v x) rfl
    exact (same.setV x (by rw [hx])).of_next h
  | op8XY0 x y => exact (same.setV x (hr (.v y) rfl)).of_next h
  | op8XY1 x y | op8XY2 x y | op8XY3 x y =>
    have hx : s'.getV x = s.getV x := hr (.v x) (.inl rfl)
    have hy : s'.getV y = s.getV y := hr (.v y) (.inr rfl)
    exact (same.setV x (by rw [hx, hy])).of_next h
  | op8XY4 x y | op8XY5 x y | op8XY7 x y =>
    have hx : s'.getV x = s.getV x := hr (.v x) (.inl rfl)
    have hy : s'.getV y = s.getV y := hr (.v y) (.inr rfl)
    exact (same.setResultAndFlag x (by rw [hx, hy]) (by rw [hx, hy])).of_next h
  | op8XY6 x y | op8XYE x y =>
    have hsrc : s'.shiftSource x y = s.shiftSource x y :=
      State.shiftSource_congr (hr .quirks (.inl rfl)) (hr (.v _) (.inr rfl))
    exact (same.setResultAndFlag x (by rw [hsrc]) (by rw [hsrc])).of_next h
  | opANNN => exact (same.setI rfl).of_next h
  | opBNNN nnn =>
    have hoff : s'.jumpOffset nnn = s.jumpOffset nnn :=
      State.jumpOffset_congr (hr .quirks (.inl rfl)) (hr (.v _) (.inr rfl))
    exact (same.setPc (by rw [hoff])).of_next h
  | opCXNN x nn =>
    have hn : s'.samples = s.samples := hr .samples rfl
    exact ((same.takeRand hn).setV x (congrArg (Config.freeRand · &&& nn) hn)).of_next h
  | opDXYN => exact execDXYN_sameEffect hr h
  | opEX9E x | opEXA1 x =>
    have hx : s'.getV x = s.getV x := hr (.v x) (.inl rfl)
    have hkey : s'.key = s.key := State.key_congr fun k => hr (.key k) (.inr trivial)
    exact (same.skipIf hpc (by rw [hx, hkey])).of_next h
  | opFX07 x => exact (same.setV x (hr .dt rfl)).of_next h
  | opFX0A => exact execFX0A_sameEffect hpc hr h
  | opFX15 x => exact (same.setDt (hr (.v x) rfl)).of_next h
  | opFX18 x => exact (same.setSt (hr (.v x) rfl)).of_next h
  | opFX1E => exact execFX1E_sameEffect hr h
  | opFX29 x => exact (same.setI (congrArg glyphAddress (hr (.v x) rfl))).of_next h
  | opFX33 x =>
    have hx : s'.getV x = s.getV x := hr (.v x) (.inl rfl)
    exact (SameEffect.storeBytes hm hm' (hr .i (.inr rfl)) fun k _ => by rw [hx]).of_next h
  | opFX55 => exact execFX55_sameEffect hm hm' hr h
  | opFX65 => exact execFX65_sameEffect hr h

end Sys2Proof.Machine

/-! ## Dead stack entries (10_state.md R27)

Two states that `SameLiveStack` relates are `s` and `s.withStack st` for a stack that agrees with `s.stack` below SP. -/

namespace Sys2Proof.Machine

/-- The state with another stack. -/
def State.withStack (s : State) (st : Vector Addr 16) : State := { s with stack := st }

/-- The stack agrees with that of `s` below SP. -/
def State.LiveStack (s : State) (st : Vector Addr 16) : Prop :=
  ∀ j : Nibble, j.toNat < s.sp.toNat → st[j.toNat]'j.isLt = s.stack[j.toNat]'j.isLt

theorem State.LiveStack.sameLiveStack {s : State} {st : Vector Addr 16} (h : s.LiveStack st) :
    s.SameLiveStack (s.withStack st) := ⟨rfl, h⟩

theorem State.SameLiveStack.exists_withStack {s s' : State} (h : s.SameLiveStack s') :
    ∃ st, s.LiveStack st ∧ s' = s.withStack st := ⟨s'.stack, h.2, h.1.symm⟩

theorem State.SameLiveStack.refl (s : State) : s.SameLiveStack s := ⟨rfl, fun _ _ => rfl⟩

/-! No instruction but 00EE and 2NNN looks at the stack. -/

theorem State.storeBytes_withStack (s : State) (st : Vector Addr 16) (f : Nat → Byte) (n : Nat) :
    (s.withStack st).storeBytes f n = (s.storeBytes f n).withStack st := by
  induction n with
  | zero => rfl
  | succ n ih => rw [State.storeBytes, ih]; rfl

theorem State.loadRegs_withStack (s : State) (st : Vector Addr 16) (n : Nat) :
    (s.withStack st).loadRegs n = (s.loadRegs n).withStack st := by
  induction n with
  | zero => rfl
  | succ n ih => rw [State.loadRegs, ih]; rfl

theorem State.bumpIndex_withStack (s : State) (st : Vector Addr 16) (x : Nibble) :
    (s.withStack st).bumpIndex x = (s.bumpIndex x).withStack st := by
  have hq : (s.withStack st).quirks = s.quirks := rfl
  unfold State.bumpIndex
  rw [hq]
  split <;> rfl

theorem State.skipIf_withStack (s : State) (st : Vector Addr 16) (b : Bool) :
    (s.withStack st).skipIf b = (s.skipIf b).withStack st := by
  cases b <;> rfl

theorem State.whenRun_withStack (s t : State) (st : Vector Addr 16) :
    (s.withStack st).whenRun (t.withStack st) = (s.whenRun t).withStack st := by
  unfold State.whenRun
  show (match s.runState with | .run => _ | .halted => _) = _
  cases s.runState <;> rfl

theorem execDXYN_withStack {x y n : Nibble} {s t : State} (st : Vector Addr 16) (h : execDXYN x y n s = .next t) :
    execDXYN x y n (s.withStack st) = .next (t.withStack st) := by
  unfold execDXYN at h
  split at h
  · next hn => cases h; exact if_pos hn
  · next hn => cases h; exact if_neg hn

theorem execFX1E_withStack {x : Nibble} {s t : State} (st : Vector Addr 16) (h : execFX1E x s = .next t) :
    execFX1E x (s.withStack st) = .next (t.withStack st) := by
  unfold execFX1E at h
  split at h
  · next hover => cases h; exact congrArg Host.Outcome.next (if_pos hover)
  · next hover => cases h; exact congrArg Host.Outcome.next (if_neg hover)

theorem execFX0A_withStack {x : Nibble} {s t : State} (st : Vector Addr 16) (h : execFX0A x s = .next t) :
    execFX0A x (s.withStack st) = .next (t.withStack st) := by
  have hsel : selectKey (s.withStack st).keySelect (s.withStack st).key = selectKey s.keySelect s.key := rfl
  unfold execFX0A at h ⊢
  rw [hsel]
  split at h <;> cases h <;> rfl

theorem exec_withStack {i : Instr} (h00EE : i ≠ .op00EE) (h2NNN : ∀ nnn, i ≠ .op2NNN nnn) {s t : State}
    (st : Vector Addr 16) (h : exec i s = .next t) : exec i (s.withStack st) = .next (t.withStack st) := by
  cases i with
  | op00EE => exact absurd rfl h00EE
  | op2NNN nnn => exact absurd rfl (h2NNN nnn)
  | op3XNN | op4XNN | op5XY0 | op9XY0 | opEX9E | opEXA1 =>
    cases h; exact congrArg Host.Outcome.next (s.skipIf_withStack st _)
  | opDXYN => exact execDXYN_withStack st h
  | opFX1E => exact execFX1E_withStack st h
  | opFX0A => exact execFX0A_withStack st h
  | opFX33 => cases h; exact congrArg Host.Outcome.next (s.storeBytes_withStack st _ _)
  | opFX55 x =>
    cases h
    refine congrArg Host.Outcome.next (Eq.trans ?_ (State.bumpIndex_withStack _ st x))
    exact congrArg (State.bumpIndex · x) (s.storeBytes_withStack st _ _)
  | opFX65 x =>
    cases h
    refine congrArg Host.Outcome.next (Eq.trans ?_ (State.bumpIndex_withStack _ st x))
    exact congrArg (State.bumpIndex · x) (s.loadRegs_withStack st _)
  | _ => cases h; rfl

theorem Instr.not_mayWrite_stack {i : Instr} (h00EE : i ≠ .op00EE) (h2NNN : ∀ nnn, i ≠ .op2NNN nnn) (s : State) :
    ¬ i.mayWrite s .sp ∧ ∀ j, ¬ i.mayWrite s (.stackAt j) := by
  cases i with
  | op00EE => exact absurd rfl h00EE
  | op2NNN nnn => exact absurd rfl (h2NNN nnn)
  | _ => simp [Instr.mayWrite, Loc.isCell, Loc.isLowReg, State.isDataByte]

/-! One STEP: the two stack instructions, then the others. -/

/-- A pop reads the highest live entry, which leaves one live entry fewer. -/
theorem exec00EE_sameLiveStack {s t : State} {st : Vector Addr 16} (hst : s.LiveStack st) (h : exec00EE s = .next t) :
    ∃ t', exec00EE (s.withStack st) = .next t' ∧ t.SameLiveStack t' := by
  rcases exec00EE_cases s with ⟨h0, e⟩ | ⟨hlt, hne, e⟩ | ⟨-, e⟩ <;> rw [e] at h <;> cases h
  · exact ⟨_, if_pos h0, rfl, hst⟩
  · have hpos : (s.sp - 1).toNat < s.sp.toNat := by bv_omega
    have hj : ((s.sp - 1).setWidth 4).toNat = (s.sp - 1).toNat := by rw [BitVec.toNat_setWidth]; omega
    have hentry : st[(s.sp - 1).toNat] = s.stack[(s.sp - 1).toNat] := by
      simpa only [hj] using hst ((s.sp - 1).setWidth 4) (by rwa [hj])
    have e' : exec00EE (s.withStack st) = .next { s.withStack st with sp := s.sp - 1, pc := st[(s.sp - 1).toNat] } :=
      (if_neg hne).trans (dif_pos hlt)
    rw [hentry] at e'
    exact ⟨_, e', rfl, fun j hj => hst j (hj.trans hpos)⟩

/-- A push writes the lowest dead entry, which becomes live. -/
theorem exec2NNN_sameLiveStack {nnn : Addr} {s t : State} {st : Vector Addr 16} (hst : s.LiveStack st)
    (h : exec2NNN nnn s = .next t) : ∃ t', exec2NNN nnn (s.withStack st) = .next t' ∧ t.SameLiveStack t' := by
  rcases exec2NNN_cases nnn s with ⟨h16, e⟩ | ⟨hlt, e⟩ | ⟨-, e⟩ <;> rw [e] at h <;> cases h
  · exact ⟨_, if_pos h16, rfl, hst⟩
  · have hne : s.sp ≠ 16 := fun e => by rw [e] at hlt; exact absurd hlt (by decide)
    refine ⟨_, (if_neg hne).trans (dif_pos hlt), rfl, fun j hj => ?_⟩
    have hle : j.toNat ≤ s.sp.toNat := by
      have : j.toNat < (s.sp + 1).toNat := hj
      bv_omega
    show (st.set s.sp.toNat s.pc hlt)[j.toNat]'j.isLt = (s.stack.set s.sp.toNat s.pc hlt)[j.toNat]'j.isLt
    rw [Vector.getElem_set, Vector.getElem_set]
    split
    · rfl
    · exact hst j (by omega)

theorem exec_sameLiveStack {i : Instr} {s t : State} {st : Vector Addr 16} (hrun : s.runState = .run)
    (hst : s.LiveStack st) (h : exec i s = .next t) :
    ∃ t', exec i (s.withStack st) = .next t' ∧ t.SameLiveStack t' := by
  by_cases h00EE : i = .op00EE
  · subst h00EE; exact exec00EE_sameLiveStack hst h
  by_cases h2NNN : ∃ nnn, i = .op2NNN nnn
  · obtain ⟨nnn, rfl⟩ := h2NNN; exact exec2NNN_sameLiveStack hst h
  have h2NNN' : ∀ nnn, i ≠ .op2NNN nnn := fun nnn e => h2NNN ⟨nnn, e⟩
  obtain ⟨hsp, hstack⟩ := Instr.not_mayWrite_stack h00EE h2NNN' s
  rcases exec_cases i s with ⟨e, -⟩ | ⟨nnn, e, -⟩ | ⟨-, e⟩ | ⟨u, e, hc⟩
  · exact absurd e h00EE
  · exact absurd e (h2NNN' nnn)
  · exact absurd (e.symm.trans h) nofun
  · cases e.symm.trans h
    have frame := hc.onlyChanges hrun h
    refine ⟨_, exec_withStack h00EE h2NNN' st h, rfl, fun j hj => ?_⟩
    rw [frame .sp hsp] at hj
    exact (hst j hj).trans (frame (.stackAt j) (hstack j)).symm

theorem execWith_sameLiveStack (rand : Byte) {i : Instr} {s t : State} {st : Vector Addr 16} (hrun : s.runState = .run)
    (hst : s.LiveStack st) (h : execWith rand i s = .next t) :
    ∃ t', execWith rand i (s.withStack st) = .next t' ∧ t.SameLiveStack t' := by
  by_cases hi : ∃ x nn, i = .opCXNN x nn
  · obtain ⟨x, nn, rfl⟩ := hi
    cases h
    exact ⟨_, rfl, rfl, hst⟩
  · have hi' : ∀ x nn, i ≠ .opCXNN x nn := fun x nn e => hi ⟨x, nn, e⟩
    rw [execWith_of_ne hi'] at h ⊢
    exact exec_sameLiveStack hrun hst h

theorem stepWith_sameLiveStack (rand : Byte) {s t : State} {st : Vector Addr 16} (hst : s.LiveStack st)
    (h : stepWith rand s = .next t) : ∃ t', stepWith rand (s.withStack st) = .next t' ∧ t.SameLiveStack t' := by
  rcases stepWith_cases rand s with ⟨hr, e⟩ | ⟨hr, hf, e⟩ | ⟨w, hr, hf, hd, e⟩ | ⟨w, i, hr, hf, hd, e⟩
  · cases e.symm.trans h
    exact ⟨_, stepWith_of_halted rand (s := s.withStack st) hr, rfl, hst⟩
  · cases e.symm.trans h
    exact ⟨_, stepWith_of_no_fetch rand (s := s.withStack st) hr hf, rfl, hst⟩
  · cases e.symm.trans h
    exact ⟨_, stepWith_of_illegal rand (s := s.withStack st) hr hf hd, rfl, hst⟩
  · rw [stepWith_of_instr rand (s := s.withStack st) hr hf hd]
    exact execWith_sameLiveStack rand (s := s.advancePc) hr hst (e.symm.trans h)

/-! Every operation, and every sequence. -/

theorem State.loadRom_withStack (s : State) (st : Vector Addr 16) (rom : List Byte) :
    (s.withStack st).loadRom rom = (s.loadRom rom).withStack st := by
  unfold State.loadRom
  rw [← State.whenRun_withStack]
  split <;> rfl

theorem State.EnvironmentEffect.liveStack {s t : State} {st : Vector Addr 16} (h : s.EnvironmentEffect t)
    (hst : s.LiveStack st) : t.LiveStack st := by
  rcases h with rfl | ⟨-, hw, -⟩
  · exact hst
  · rw [← hw]; exact hst

theorem State.EnvironmentWrites.whenRun_sameLiveStack {s t : State} {st : Vector Addr 16} (h : s.EnvironmentWrites t)
    (hst : s.LiveStack st) : (s.whenRun t).SameLiveStack ((s.withStack st).whenRun (t.withStack st)) := by
  rw [State.whenRun_withStack]
  exact (h.whenRun.liveStack hst).sameLiveStack

theorem applyOp_sameLiveStack {op : Op} {s s' t : State} (hs : s.SameLiveStack s') (h : applyOp op s = .next t) :
    ∃ t', applyOp op s' = .next t' ∧ t.SameLiveStack t' := by
  obtain ⟨st, hst, rfl⟩ := hs.exists_withStack
  cases op with
  | reset p => cases h; exact ⟨_, rfl, .refl _⟩
  | step rand => exact stepWith_sameLiveStack rand hst h
  | loadRom rom =>
    cases h
    exact ⟨_, congrArg Host.Outcome.next (s.loadRom_withStack st rom),
      ((s.environmentEffect_loadRom rom).liveStack hst).sameLiveStack⟩
  | tick =>
    cases h
    have hw : s.EnvironmentWrites { s with dt := tickTimer s.dt, st := tickTimer s.st } := ⟨rfl, id⟩
    exact ⟨_, rfl, hw.whenRun_sameLiveStack hst⟩
  | keyPress k =>
    cases h
    have hw : s.EnvironmentWrites (s.setKey k true) := ⟨rfl, id⟩
    exact ⟨_, rfl, hw.whenRun_sameLiveStack hst⟩
  | keyRelease k =>
    cases h
    have hw : s.EnvironmentWrites (s.setKey k false) := ⟨rfl, id⟩
    exact ⟨_, rfl, hw.whenRun_sameLiveStack hst⟩

theorem runOps_sameLiveStack {ops : List Op} {s s' t : State} (hs : s.SameLiveStack s') (h : runOps ops s = .next t) :
    ∃ t', runOps ops s' = .next t' ∧ t.SameLiveStack t' := by
  induction ops generalizing s s' with
  | nil => cases h; exact ⟨s', rfl, hs⟩
  | cons op ops ih =>
    obtain ⟨u, hu, ht⟩ := runOps_cons_eq_next h
    obtain ⟨u', hu', hsame⟩ := applyOp_sameLiveStack hs hu
    rw [runOps_cons_next hu']
    exact ih hsame ht

/-- Settles O59: the relation is kept by every sequence, and no output looks at the stack. -/
theorem deadStackEntriesAreUnobservable : Obligations.DeadStackEntriesAreUnobservable := by
  intro ops s s' t hs h
  obtain ⟨t', ht', hsame⟩ := runOps_sameLiveStack hs h
  obtain ⟨st, -, rfl⟩ := hsame.exists_withStack
  exact ⟨_, ht', hsame, rfl, rfl, fun _ _ => rfl⟩

end Sys2Proof.Machine

/-! ## Memory: the canonical form, the fetched word and stored code (20_memory.md R50 to R62) -/

namespace Sys2Proof.Machine

/-! A canonical memory is determined by what it reads as. -/

/-- A listed byte is what its address reads as: no other entry has that address. -/
theorem Memory.read_of_mem {m : Memory} {a : Nat} {v : Byte} (hs : m.Pairwise (fun c d => c.1 < d.1))
    (h : (a, v) ∈ m) : Memory.read m a = v := by
  induction m with
  | nil => cases h
  | cons c rest ih =>
    obtain ⟨hlt, hrest⟩ := List.pairwise_cons.1 hs
    rcases List.mem_cons.1 h with rfl | h
    · exact if_pos rfl
    · exact (if_neg (hlt _ h).ne').trans (ih hrest h)

/-- An address that does not read as the reset contents is listed. -/
theorem Memory.mem_of_read_ne {m : Memory} {a : Nat} (h : Memory.read m a ≠ Config.resetByte a) :
    (a, Memory.read m a) ∈ m := by
  induction m with
  | nil => exact absurd rfl h
  | cons c rest ih =>
    by_cases ha : a = c.1
    · simp [Memory.read, ha]
    · have hread : Memory.read (c :: rest) a = Memory.read rest a := if_neg ha
      rw [hread] at h ⊢
      exact List.mem_cons_of_mem c (ih h)

/-- The entries of a canonical memory are the addresses that do not read as the reset contents, with what they read. -/
theorem Memory.mem_iff_read {m : Memory} (h : Memory.wf m) (c : Host.Cell) :
    c ∈ m ↔ c.1 < 4096 ∧ Memory.read m c.1 = c.2 ∧ c.2 ≠ Config.resetByte c.1 := by
  obtain ⟨hsorted, hcells⟩ := h
  constructor
  · intro hc
    exact ⟨(hcells c hc).1, Memory.read_of_mem hsorted hc, (hcells c hc).2⟩
  · rintro ⟨-, hread, hne⟩
    have hmem := Memory.mem_of_read_ne (hread.trans_ne hne)
    rwa [hread] at hmem

/-- Settles O20: equal reads give equal entries, and the rising addresses fix their order. -/
theorem canonicalMemoriesThatReadAlikeAreEqual : Obligations.CanonicalMemoriesThatReadAlikeAreEqual := by
  intro m n hm hn hread
  have : Std.Irrefl fun c d : Host.Cell => c.1 < d.1 := ⟨fun c => lt_irrefl c.1⟩
  refine hm.1.eq_of_mem_iff hn.1 fun c => ?_
  rw [Memory.mem_iff_read hm, Memory.mem_iff_read hn]
  exact and_congr_right fun hc => by rw [hread c.1 hc]

/-- Settles O19, by the law of a read after a write and the frame of a write. -/
theorem memoryReadAfterWrite : Obligations.MemoryReadAfterWrite := by
  intro s a b hm
  exact ⟨by rw [State.memRead_memWrite hm, if_pos rfl], (State.onlyChanges.refl s _).memWrite b rfl⟩

/-! Data addresses. -/

/-- Settles O21: the offsets of one instruction are far below 4096. -/
theorem dataAddressesWrapAndAreDistinct : Obligations.DataAddressesWrapAndAreDistinct := by
  intro s j k
  exact ⟨s.ea_toNat k, fun hj hk h => State.ea_inj (by omega) (by omega) h⟩

/-- Consecutive offsets are consecutive addresses, past 0xFFF too. -/
theorem State.ea_succ (s : State) (k : Nat) : s.ea (k + 1) = s.ea k + 1 := by
  exact BitVec.ofNat_add (n := 12) (s.i.toNat + k) 1

/-! The fetch. -/

/-- The two bytes of a word do not overlap, so putting them together is a sum. -/
theorem wordOfBytes_toNat (hi lo : Byte) : (wordOfBytes hi lo).toNat = hi.toNat * 256 + lo.toNat := by
  have hhi : hi.toNat * 256 % 65536 = hi.toNat * 256 := by omega
  have hlo : lo.toNat % 65536 = lo.toNat := by omega
  have hor : hi.toNat * 256 ||| lo.toNat = hi.toNat * 256 + lo.toNat := by
    rw [← Nat.mul_comm 256]
    exact (Nat.two_pow_add_eq_or_of_lt (i := 8) lo.isLt hi.toNat).symm
  simpa [wordOfBytes, Nat.shiftLeft_eq, hhi, hlo] using hor

/-- In RUN at 0xFFF there is no word to fetch. -/
theorem step_of_no_fetch {s : State} (hrun : s.runState = .run) (hf : s.fetch16 s.pc = none) :
    step s = .next (s.takeFault .fetchOutOfRange s.pc none) := by
  simp [step, State.fetchDecode, hrun, hf]

/-- In RUN a fetched word that decodes is executed with PC = PCn. -/
theorem step_of_instr {s : State} {w : Word} {i : Instr} (hrun : s.runState = .run) (hf : s.fetch16 s.pc = some w)
    (hd : decodeWord w = some i) : step s = exec i s.advancePc := by
  simp [step, State.fetchDecode, hrun, hf, hd]

/-- Settles O9: the word is its two bytes in order, and there is none at 0xFFF. -/
theorem fetchIsBigEndianAndFaultsAtTheTop : Obligations.FetchIsBigEndianAndFaultsAtTheTop := by
  intro s
  have htop : s.fetch16 0xFFF = none := (s.fetch16_eq_none _).2 rfl
  refine ⟨fun p hp => ⟨_, s.fetch16_of_ne hp, wordOfBytes_toNat _ _⟩, htop, fun hrun hpc => ?_⟩
  rw [step_of_no_fetch hrun (hpc ▸ htop), State.takeFault, hpc]

/-! A word placed at PC (log entry 7). -/

/-- The table's reading of a word is the decoder's, for a word that fits. -/
theorem decodeTableWord_eq (nbits w : Nat) : decodeTableWord nbits w =
    if w < 2 ^ nbits ∧ w < 2 ^ 16 then decodeWord (BitVec.ofNat 16 w) else none := by
  simp only [decodeTableWord, decodeBytes, wordOfBytes_hi_lo]
  cases decodeWord (BitVec.ofNat 16 w) <;> rfl

theorem State.placeWord_of_ne {s : State} (w : Word) (h : s.pc ≠ 0xFFF) :
    s.placeWord w = (s.memWrite s.pc (hiByte w)).memWrite (s.pc + 1) (loByte w) := if_neg h

/-- The word placed is the word fetched: its high byte at PC, its low byte at the next address. -/
theorem State.fetch16_placeWord {s : State} (w : Word) (hm : Memory.wf s.mem) (hpc : s.pc ≠ 0xFFF) :
    (s.placeWord w).fetch16 s.pc = some w := by
  have hne : s.pc ≠ s.pc + 1 := by bv_omega
  have hm' : Memory.wf (s.memWrite s.pc (hiByte w)).mem := s.memWrite_wf _ _ hm
  rw [State.fetch16_of_ne _ hpc, State.placeWord_of_ne w hpc, State.memRead_memWrite hm', if_neg hne,
    State.memRead_memWrite hm, if_pos rfl, State.memRead_memWrite hm', if_pos rfl, wordOfBytes_hi_lo]

theorem State.onlyChanges_placeWord (s : State) (w : Word) :
    s.onlyChanges (s.placeWord w) (fun l => l = .byte s.pc ∨ l = .byte (s.pc + 1)) := by
  have same : s.onlyChanges s (fun l => l = .byte s.pc ∨ l = .byte (s.pc + 1)) := .refl s _
  unfold State.placeWord
  split
  · exact same
  · exact (same.memWrite _ (.inl rfl)).memWrite _ (.inr rfl)

/-- Placing a word moves neither PC nor RUNSTATE. -/
theorem State.placeWord_pc (s : State) (w : Word) : (s.placeWord w).pc = s.pc :=
  s.onlyChanges_placeWord w .pc (by simp)

theorem State.placeWord_runState (s : State) (w : Word) : (s.placeWord w).runState = s.runState :=
  s.onlyChanges_placeWord w .runState (by simp)

theorem State.withFetchWord_16 (s : State) (w : Nat) : s.withFetchWord 16 w = s.placeWord (BitVec.ofNat 16 w) := by
  refine congrArg s.placeWord (BitVec.eq_of_toNat_eq ?_)
  rw [BitVec.toNat_ofNat, BitVec.toNat_ofNat, Nat.mod_mod]

/-- Settles O8: the fetch reads the word placed, and the table's decoder is the machine's. -/
theorem placedWordIsTheNextInstruction : Obligations.PlacedWordIsTheNextInstruction := by
  intro s w i hm hrun hpc hd
  rw [decodeTableWord_eq] at hd
  obtain ⟨-, hd⟩ := Option.ite_none_right_eq_some.1 hd
  rw [State.withFetchWord_16]
  refine ⟨?_, s.onlyChanges_placeWord _⟩
  have hpc' := s.placeWord_pc (BitVec.ofNat 16 w)
  have hstep := step_of_instr ((s.placeWord_runState _).trans hrun)
    (hpc' ▸ State.fetch16_placeWord (BitVec.ofNat 16 w) hm hpc) hd
  rw [hstep, State.advancePc, State.setPc, hpc']

/-! Code that FX55 stores. -/

/-- FX55 stores V[k] at EA(k), for every k up to X; the move of I leaves memory as it is. -/
theorem memRead_ea_of_exec_FX55 {s t : State} {x : Nibble} (hm : Memory.wf s.mem) (h : exec (.opFX55 x) s = .next t)
    {k : Nat} (hk : k ≤ x.toNat) : t.memRead (s.ea k) = s.getV (BitVec.ofNat 4 k) := by
  cases h
  rw [State.memRead_bumpIndex]
  exact State.memRead_storeBytes _ hm (by omega) (by omega)

/-- Settles O22: the two addresses the fetch reads are those of two consecutive stored bytes. -/
theorem storedCodeIsSeenByTheNextFetch : Obligations.StoredCodeIsSeenByTheNextFetch := by
  rintro s t x j p hm h hj hp rfl
  rw [State.fetch16_of_ne t hp, ← State.ea_succ, memRead_ea_of_exec_FX55 hm h (by omega),
    memRead_ea_of_exec_FX55 hm h hj]

end Sys2Proof.Machine

/-! ## The fields of a word as numbers (30_encoding.md R71) -/

namespace Sys2Proof

theorem fieldC_toNat (w : Word) : (fieldC w).toNat = w.toNat / 4096 := by
  rw [fieldC, BitVec.extractLsb'_toNat, Nat.shiftRight_eq_div_pow]; omega
theorem fieldX_toNat (w : Word) : (fieldX w).toNat = w.toNat / 256 % 16 := by
  rw [fieldX, BitVec.extractLsb'_toNat, Nat.shiftRight_eq_div_pow]
theorem fieldY_toNat (w : Word) : (fieldY w).toNat = w.toNat / 16 % 16 := by
  rw [fieldY, BitVec.extractLsb'_toNat, Nat.shiftRight_eq_div_pow]
theorem fieldN_toNat (w : Word) : (fieldN w).toNat = w.toNat % 16 := BitVec.extractLsb'_toNat 0 4 w
theorem fieldNN_toNat (w : Word) : (fieldNN w).toNat = w.toNat % 256 := BitVec.extractLsb'_toNat 0 8 w
theorem fieldNNN_toNat (w : Word) : (fieldNNN w).toNat = w.toNat % 4096 := BitVec.extractLsb'_toNat 0 12 w

/-- NN is the byte stored at the higher address. -/
theorem fieldNN_wordOfBytes (b0 b1 : Byte) : fieldNN (wordOfBytes b0 b1) = b1 := loByte_wordOfBytes b0 b1

/-- Settles O5: each field is a quotient or a remainder of the word's number, and that number is b0 * 256 + b1. -/
theorem fieldsOfAWord : Obligations.FieldsOfAWord := by
  refine ⟨fun w => ?_, fun b0 b1 => ?_⟩
  · simp only [fieldC_toNat, fieldX_toNat, fieldY_toNat, fieldN_toNat, fieldNN_toNat, fieldNNN_toNat, true_and]
    omega
  · simp only [fieldC_toNat, fieldX_toNat, fieldY_toNat, fieldN_toNat, fieldNNN_toNat, fieldNN_wordOfBytes,
      Machine.wordOfBytes_toNat, true_and]
    omega

end Sys2Proof

/-! ## Decoding an encoded instruction, and encoding a decoded one (30_encoding.md R74, R80) -/

namespace Sys2Proof

/-! A word built in one format is decoded by the parts it was built from. -/

theorem decodeWord_wordXYN (c x y n : Nibble) : decodeWord (wordXYN c x y n) =
    decodeFields c x y n (fieldNN (wordXYN c x y n)) (fieldNNN (wordXYN c x y n)) := by
  simp only [decodeWord, fieldC_wordXYN, fieldX_wordXYN, fieldY_wordXYN, fieldN_wordXYN]

theorem decodeWord_wordXNN (c x : Nibble) (nn : Byte) : decodeWord (wordXNN c x nn) =
    decodeFields c x (fieldY (wordXNN c x nn)) (fieldN (wordXNN c x nn)) nn (fieldNNN (wordXNN c x nn)) := by
  simp only [decodeWord, fieldC_wordXNN, fieldX_wordXNN, fieldNN_wordXNN]

theorem decodeWord_wordNNN (c : Nibble) (nnn : Addr) : decodeWord (wordNNN c nnn) =
    decodeFields c (fieldX (wordNNN c nnn)) (fieldY (wordNNN c nnn)) (fieldN (wordNNN c nnn))
      (fieldNN (wordNNN c nnn)) nnn := by
  simp only [decodeWord, fieldC_wordNNN, fieldNNN_wordNNN]

/-- The map by category, at the constants `encode` puts in, leads back to the instruction; one case per format. -/
theorem decodeWord_encode (i : Instr) : decodeWord (encode i) = some i := by
  cases i
  case op00E0 | op00EE | op1NNN | op2NNN | opANNN | opBNNN => exact decodeWord_wordNNN ..
  case op5XY0 | op8XY0 | op8XY1 | op8XY2 | op8XY3 | op8XY4 | op8XY5 | op8XY6 | op8XY7 | op8XYE | op9XY0 | opDXYN =>
    exact decodeWord_wordXYN ..
  all_goals exact decodeWord_wordXNN ..

theorem decodeBytes_encodeBytes_append (i : Instr) (rest : List Byte) :
    decodeBytes (encodeBytes i ++ rest) = .ok (i, rest) := by
  simp [encodeBytes, decodeBytes, decodeWord_encode]

/-- Settles O1: the decoder of words inverts `encode`, and the decoder of bytes reads that word from its two bytes. -/
theorem decodeOfEncodeIsTheInstruction : Obligations.DecodeOfEncodeIsTheInstruction :=
  fun i => ⟨decodeWord_encode i, decodeBytes_encodeBytes_append i⟩

/-- Settles O2: every field the decoder reads is put back where it came from. -/
theorem encodeOfDecodeIsTheWord : Obligations.EncodeOfDecodeIsTheWord :=
  fun _ _ => encode_of_decodeWord

/-- Settles O6: each word is evaluated. -/
theorem sampleWordsDecode : Obligations.SampleWordsDecode := by
  unfold Obligations.SampleWordsDecode
  decide

end Sys2Proof

/-! ## The illegal words (30_encoding.md R75, R78) -/

namespace Sys2Proof

theorem decode0_eq_none (nnn : Addr) : decode0 nnn = none ↔ nnn ≠ 0x0E0 ∧ nnn ≠ 0x0EE := by
  unfold decode0
  split <;> simp_all

theorem decode8_eq_none (x y n : Nibble) :
    decode8 x y n = none ↔ n ∈ ([0x8, 0x9, 0xA, 0xB, 0xC, 0xD, 0xF] : List Nibble) := by
  unfold decode8
  split
  case h_10 => revert n; decide
  all_goals exact iff_of_false nofun (by decide)

theorem decodeE_eq_none (x : Nibble) (nn : Byte) : decodeE x nn = none ↔ nn ∉ ([0x9E, 0xA1] : List Byte) := by
  unfold decodeE
  split <;> simp_all

theorem decodeF_eq_none (x : Nibble) (nn : Byte) : decodeF x nn = none ↔
    nn ∉ ([0x07, 0x0A, 0x15, 0x18, 0x1E, 0x29, 0x33, 0x55, 0x65] : List Byte) := by
  unfold decodeF
  split <;> simp_all

/-- Only six categories hold illegal words; each of the others is one instruction whatever its fields are. -/
theorem decodeFields_eq_none (c x y n : Nibble) (nn : Byte) (nnn : Addr) : decodeFields c x y n nn nnn = none ↔
    (c = 0x0 ∧ decode0 nnn = none) ∨ (c = 0x5 ∧ n ≠ 0) ∨ (c = 0x8 ∧ decode8 x y n = none) ∨ (c = 0x9 ∧ n ≠ 0) ∨
    (c = 0xE ∧ decodeE x nn = none) ∨ (c = 0xF ∧ decodeF x nn = none) := by
  unfold decodeFields
  split
  case h_17 => exfalso; revert c; decide
  all_goals simp

/-- In a given category, NNN is the rest of the word. -/
theorem fieldNNN_eq_iff {w : Word} {c : Nibble} (hc : fieldC w = c) (nnn : Addr) :
    fieldNNN w = nnn ↔ w = wordNNN c nnn := by
  rw [← wordNNN_fields w, wordNNN_inj]
  simp [hc]

/-- Settles O4: category by category, where the map has no entry. -/
theorem illegalWordsByCategory : Obligations.IllegalWordsByCategory := by
  intro w
  have h0 (hc : fieldC w = 0x0) : decode0 (fieldNNN w) = none ↔ w ≠ 0x00E0 ∧ w ≠ 0x00EE := by
    rw [decode0_eq_none]
    exact and_congr (fieldNNN_eq_iff hc _).not (fieldNNN_eq_iff hc _).not
  rw [decodeWord, decodeFields_eq_none, decode8_eq_none, decodeE_eq_none, decodeF_eq_none, and_congr_right h0]

end Sys2Proof

/-! ## The opcode table: mask and match (30_encoding.md R74, R76)

Every instruction's word matches the row of its pattern, and every word that matches a row decodes to an instruction of
that row; since no two rows have one pattern, no word matches two. -/

namespace Sys2Proof.Laws.MatchesRow

/-- The laws above, one per constructor, as one. -/
theorem statement : ∀ i : Instr, Statement i
  | .op00E0 => op00E0 | .op00EE => op00EE | .op1NNN nnn => op1NNN nnn | .op2NNN nnn => op2NNN nnn
  | .op3XNN x nn => op3XNN x nn | .op4XNN x nn => op4XNN x nn | .op5XY0 x y => op5XY0 x y
  | .op6XNN x nn => op6XNN x nn | .op7XNN x nn => op7XNN x nn | .op8XY0 x y => op8XY0 x y
  | .op8XY1 x y => op8XY1 x y | .op8XY2 x y => op8XY2 x y | .op8XY3 x y => op8XY3 x y
  | .op8XY4 x y => op8XY4 x y | .op8XY5 x y => op8XY5 x y | .op8XY6 x y => op8XY6 x y
  | .op8XY7 x y => op8XY7 x y | .op8XYE x y => op8XYE x y | .op9XY0 x y => op9XY0 x y
  | .opANNN nnn => opANNN nnn | .opBNNN nnn => opBNNN nnn | .opCXNN x nn => opCXNN x nn
  | .opDXYN x y n => opDXYN x y n | .opEX9E x => opEX9E x | .opEXA1 x => opEXA1 x | .opFX07 x => opFX07 x
  | .opFX0A x => opFX0A x | .opFX15 x => opFX15 x | .opFX18 x => opFX18 x | .opFX1E x => opFX1E x
  | .opFX29 x => opFX29 x | .opFX33 x => opFX33 x | .opFX55 x => opFX55 x | .opFX65 x => opFX65 x

end Sys2Proof.Laws.MatchesRow

namespace Sys2Proof

theorem opcodeRows_pattern_nodup : (opcodeRows.map OpcodeRow.pattern).Nodup := by decide

/-- An instruction's word matches every row of its pattern: there is but one. -/
theorem encode_and_mask {i : Instr} {row : OpcodeRow} (hrow : row ∈ opcodeRows) (hp : i.pattern = row.pattern) :
    encode i &&& row.mask = row.bits := by
  obtain ⟨own, hown, hpattern, hmatch⟩ := Laws.MatchesRow.statement i
  obtain rfl := List.inj_on_of_nodup_map opcodeRows_pattern_nodup hown hrow (hpattern.trans hp)
  exact hmatch

/-! Words that agree under a mask agree in the fields the mask keeps. -/

theorem and_full_mask (w : Word) : w &&& 0xFFFF = w := BitVec.and_allOnes

theorem fieldC_eq_of_and_top {w u : Word} (h : w &&& 0xF000 = u &&& 0xF000) : fieldC w = fieldC u := by
  rw [and_top_mask, and_top_mask, wordNNN_inj] at h
  exact h.1

theorem fields_eq_of_and_xy {w u : Word} (h : w &&& 0xF00F = u &&& 0xF00F) :
    fieldC w = fieldC u ∧ fieldN w = fieldN u := by
  rw [and_xy_mask, and_xy_mask, wordXYN_inj] at h
  obtain ⟨hC, -, -, hN⟩ := h
  exact ⟨hC, hN⟩

theorem fields_eq_of_and_x {w u : Word} (h : w &&& 0xF0FF = u &&& 0xF0FF) :
    fieldC w = fieldC u ∧ fieldNN w = fieldNN u := by
  rw [and_x_mask, and_x_mask, wordXNN_inj] at h
  obtain ⟨hC, -, hNN⟩ := h
  exact ⟨hC, hNN⟩

/-- The bits an instruction's format fixes (R72): the mask of its row of R76, as `exists_instr_of_row` says. -/
def Instr.mask : Instr → Word
  | .op00E0 | .op00EE => 0xFFFF
  | .op5XY0 .. | .op8XY0 .. | .op8XY1 .. | .op8XY2 .. | .op8XY3 .. | .op8XY4 .. | .op8XY5 .. | .op8XY6 ..
  | .op8XY7 .. | .op8XYE .. | .op9XY0 .. => 0xF00F
  | .opEX9E _ | .opEXA1 _ | .opFX07 _ | .opFX0A _ | .opFX15 _ | .opFX18 _ | .opFX1E _ | .opFX29 _ | .opFX33 _
  | .opFX55 _ | .opFX65 _ => 0xF0FF
  | _ => 0xF000

/-- A row's match is itself the word of an instruction of that row. -/
theorem exists_instr_of_row : ∀ row ∈ opcodeRows,
    ∃ i ∈ decodeWord row.bits, i.pattern = row.pattern ∧ i.mask = row.mask := by decide

/-- A word with an instruction's fixed bits decodes to an instruction of the same pattern: the decoder selects by the
fields those bits make up. -/
theorem decodeWord_of_and_mask {i : Instr} {w : Word} (h : w &&& i.mask = encode i &&& i.mask) :
    ∃ j, decodeWord w = some j ∧ j.pattern = i.pattern := by
  cases i
  case op00E0 | op00EE =>
    rw [Instr.mask, and_full_mask, and_full_mask] at h
    exact ⟨_, h ▸ decodeWord_encode _, rfl⟩
  case op1NNN | op2NNN | opANNN | opBNNN | op3XNN | op4XNN | op6XNN | op7XNN | opCXNN | opDXYN =>
    have hC := fieldC_eq_of_and_top h
    simp only [encode, fieldC_wordNNN, fieldC_wordXNN, fieldC_wordXYN] at hC
    rw [decodeWord, hC]
    exact ⟨_, rfl, rfl⟩
  case op5XY0 | op8XY0 | op8XY1 | op8XY2 | op8XY3 | op8XY4 | op8XY5 | op8XY6 | op8XY7 | op8XYE | op9XY0 =>
    obtain ⟨hC, hN⟩ := fields_eq_of_and_xy h
    simp only [encode, fieldC_wordXYN, fieldN_wordXYN] at hC hN
    rw [decodeWord, hC, hN]
    exact ⟨_, rfl, rfl⟩
  all_goals
    obtain ⟨hC, hNN⟩ := fields_eq_of_and_x h
    simp only [encode, fieldC_wordXNN, fieldNN_wordXNN] at hC hNN
    rw [decodeWord, hC, hNN]
    exact ⟨_, rfl, rfl⟩

/-- A word decodes to an instruction of a row exactly when it matches the row. -/
theorem decodeWord_pattern_iff_match {row : OpcodeRow} (hrow : row ∈ opcodeRows) (w : Word) :
    (∃ i, decodeWord w = some i ∧ i.pattern = row.pattern) ↔ w &&& row.mask = row.bits := by
  constructor
  · rintro ⟨i, hi, hp⟩
    rw [← encode_of_decodeWord hi]
    exact encode_and_mask hrow hp
  · intro hw
    obtain ⟨i, -, hp, hmask⟩ := exists_instr_of_row row hrow
    rw [← hp]
    refine decodeWord_of_and_mask ?_
    rw [hmask, hw, encode_and_mask hrow hp]

/-- A word that matches two rows would decode to one instruction with both patterns. -/
theorem opcodeRows_disjoint :
    opcodeRows.Pairwise fun a b => ∀ w : Word, ¬ (w &&& a.mask = a.bits ∧ w &&& b.mask = b.bits) := by
  refine (List.pairwise_map.1 opcodeRows_pattern_nodup).imp_of_mem fun ha hb hne w ⟨hwa, hwb⟩ => hne ?_
  obtain ⟨i, hi, hia⟩ := (decodeWord_pattern_iff_match ha w).2 hwa
  obtain ⟨j, hj, hjb⟩ := (decodeWord_pattern_iff_match hb w).2 hwb
  obtain rfl : i = j := Option.some.inj (hi.symm.trans hj)
  exact hia.symm.trans hjb

/-- A word decodes to nothing exactly when it matches no row. -/
theorem decodeWord_eq_none_iff (w : Word) :
    decodeWord w = none ↔ ∀ row ∈ opcodeRows, w &&& row.mask ≠ row.bits := by
  constructor
  · intro hnone row hrow hw
    obtain ⟨i, hi, -⟩ := (decodeWord_pattern_iff_match hrow w).2 hw
    exact Option.some_ne_none i (hi.symm.trans hnone)
  · intro hno
    refine Option.eq_none_iff_forall_ne_some.2 fun i hi => ?_
    obtain ⟨row, hrow, -, hmatch⟩ := Laws.MatchesRow.statement i
    exact hno row hrow (encode_of_decodeWord hi ▸ hmatch)

/-- Settles O3, from the iff of one row. -/
theorem decodeAgreesWithMaskAndMatch : Obligations.DecodeAgreesWithMaskAndMatch :=
  ⟨fun _ hrow w => decodeWord_pattern_iff_match hrow w, opcodeRows_disjoint, decodeWord_eq_none_iff⟩

end Sys2Proof

/-! ## The STEP cycle and the other operations (40_step_cycle.md R90 to R105) -/

namespace Sys2Proof.Machine

/-! HALTED (R94, 60_exceptions.md R213, R216). -/

/-- While HALTED no operation but RESET has an effect. -/
theorem applyOp_of_halted {op : Op} (hop : ∀ p, op ≠ .reset p) {s : State} (hr : s.runState = .halted) :
    applyOp op s = .next s := by
  rcases applyOp_cases op s with ⟨p, rfl⟩ | ⟨rand, rfl⟩ | ⟨t, e, rfl | ⟨hrun, -⟩⟩
  · exact absurd rfl (hop p)
  · exact stepWith_of_halted rand hr
  · exact e
  · exact absurd (hrun.symm.trans hr) nofun

theorem runOps_of_halted {ops : List Op} (hops : ∀ op ∈ ops, ∀ p, op ≠ .reset p) {s : State}
    (hr : s.runState = .halted) : runOps ops s = .next s := by
  induction ops with
  | nil => rfl
  | cons op ops ih =>
    rw [runOps_cons_next (applyOp_of_halted (hops op List.mem_cons_self) hr)]
    exact ih fun o ho => hops o (List.mem_cons_of_mem _ ho)

/-- Settles O13, by induction on the sequence; the RESET after it leaves RUN. -/
theorem haltedIgnoresAllButReset : Obligations.HaltedIgnoresAllButReset := by
  intro s ops hr hops
  have hsame := runOps_of_halted hops hr
  refine ⟨hsame, fun p => ⟨s.resetWith p, ?_, rfl, rfl⟩⟩
  rw [runOps_append, hsame]
  rfl

/-! TICK (R99). -/

/-- Subtraction of natural numbers stops at 0 as a timer does. -/
theorem tickTimer_toNat (b : Byte) : (tickTimer b).toNat = b.toNat - 1 := by
  unfold tickTimer
  split
  · next hpos => bv_omega
  · next hzero => omega

theorem applyOp_tick_of_run {s : State} (hrun : s.runState = .run) :
    applyOp .tick s = .next { s with dt := tickTimer s.dt, st := tickTimer s.st } :=
  congrArg Host.Outcome.next (State.whenRun_run _ hrun)

theorem runOps_replicate_tick {s : State} (hrun : s.runState = .run) (n : Nat) :
    runOps (List.replicate n .tick) s = .next { s with
      dt := BitVec.ofNat 8 (s.dt.toNat - n), st := BitVec.ofNat 8 (s.st.toNat - n) } := by
  induction n generalizing s with
  | zero => simp [runOps]
  | succ n ih =>
    have hrest := ih (s := { s with dt := tickTimer s.dt, st := tickTimer s.st }) hrun
    have hsub (b : Byte) : b.toNat - 1 - n = b.toNat - (n + 1) := by omega
    simp only [tickTimer_toNat, hsub] at hrest
    exact (runOps_cons_next (applyOp_tick_of_run hrun)).trans hrest

/-- Settles O50: in RUN by induction on the number of TICKs, in HALTED since nothing but RESET has an effect there. -/
theorem ticksCountEachTimerDown : Obligations.TicksCountEachTimerDown := by
  refine fun s n => ⟨fun hrun => runOps_replicate_tick hrun n, runOps_of_halted fun op hop => ?_⟩
  obtain rfl := List.eq_of_mem_replicate hop
  exact nofun

/-! LOAD_ROM (R104, 60_exceptions.md R219). -/

/-- A new memory changes the bytes that read differently. -/
theorem State.onlyChanges.setMem {s t : State} {w : Loc → Prop} (h : s.onlyChanges t w) {m : Memory}
    (hm : ∀ a : Addr, ¬ w (.byte a) → Memory.read m a.toNat = t.memRead a) : s.onlyChanges { t with mem := m } w := by
  refine h.trans fun l hl => ?_
  cases l with
  | byte a => exact hm a hl
  | _ => rfl

theorem romRejected_iff (rom : List Byte) : romRejected rom = true ↔ 3584 < rom.length := decide_eq_true_iff

theorem State.loadRom_of_fits {s : State} {rom : List Byte} (hrun : s.runState = .run) (hl : rom.length ≤ 3584) :
    s.loadRom rom = { s with mem := Memory.writeList rom 0x200 s.mem } :=
  (s.whenRun_run _ hrun).trans (if_pos hl)

theorem State.loadRom_of_tooLong (s : State) {rom : List Byte} (hl : 3584 < rom.length) : s.loadRom rom = s := by
  rcases s.loadRom_cases rom with ⟨-, hfits, -⟩ | e
  · exact absurd hfits (Nat.not_le_of_lt hl)
  · exact e

/-- An image that fits ends at or below 0xFFF, so no byte of it is lost. -/
theorem State.memRead_loadRom {s : State} {rom : List Byte} (hm : Memory.wf s.mem) (hrun : s.runState = .run)
    (hl : rom.length ≤ 3584) (a : Addr) : (s.loadRom rom).memRead a =
      if 0x200 ≤ a.toNat ∧ a.toNat < 0x200 + rom.length then rom.getD (a.toNat - 0x200) 0 else s.memRead a := by
  rw [State.loadRom_of_fits hrun hl]
  exact Memory.read_writeList rom 0x200 s.mem a.toNat hm (show 0x200 + rom.length ≤ 4096 by omega)

theorem State.onlyChanges_loadRom {s : State} {rom : List Byte} (hm : Memory.wf s.mem) (hrun : s.runState = .run)
    (hl : rom.length ≤ 3584) : s.onlyChanges (s.loadRom rom)
      (fun l => ∃ a : Addr, l = .byte a ∧ 0x200 ≤ a.toNat ∧ a.toNat < 0x200 + rom.length) := by
  have hread := State.memRead_loadRom hm hrun hl
  rw [State.loadRom_of_fits hrun hl] at hread ⊢
  exact (State.onlyChanges.refl s _).setMem fun a ha => (hread a).trans (if_neg fun hin => ha ⟨a, rfl, hin⟩)

/-- Settles O54: an image that fits is read back byte by byte; a longer one, and HALTED, leave the state. -/
theorem loadRomCopiesOrRefuses : Obligations.LoadRomCopiesOrRefuses := by
  intro s rom hm
  refine ⟨s.loadRom rom, rfl, fun hrun hl => ⟨?_, State.loadRom_wf rom hm, fun a hlo hhi => ?_,
    State.onlyChanges_loadRom hm hrun hl⟩, fun hl => ⟨(romRejected_iff rom).2 hl, s.loadRom_of_tooLong hl⟩,
    State.whenRun_halted _⟩
  · exact Bool.eq_false_iff.2 fun hrej => Nat.not_lt_of_le hl ((romRejected_iff rom).1 hrej)
  · exact (State.memRead_loadRom hm hrun hl a).trans (if_pos ⟨hlo, hhi⟩)

/-! STEP (R95 to R98) and the random input (R105). -/

/-- Settles O7: there is a word to fetch at every PC but 0xFFF, and `advancePc` adds 2 to PC. -/
theorem stepRunsTheDecodedInstruction : Obligations.StepRunsTheDecodedInstruction :=
  fun s _ hrun hpc hd => step_of_instr hrun (s.fetch16_of_ne hpc) hd

/-- A category that is one instruction of format XNN, whatever the other fields are (30_encoding.md R75). -/
theorem encodedXNN_of_decodeFields {bits : Word} {mk : Nibble → Byte → Instr}
    (h : ∀ x y n nn nnn, decodeFields (fieldC bits) x y n nn nnn = some (mk x nn)) (hbits : bits &&& 0xF000 = bits) :
    EncodedXNN bits mk := by
  intro w hw
  rw [decodeWord, fieldC_eq_of_and_top (hw.trans hbits.symm)]
  exact h _ _ _ _ _

/-- Settles O36: CXNN is one write of VX, and in `exec` a count of one sample before it. -/
theorem randomByteIsMasked : Obligations.RandomByteIsMasked := by
  refine ⟨encodedXNN_of_decodeFields (fun _ _ _ _ _ => rfl) (by decide), fun s x nn => ⟨fun rand => ?_, ?_⟩⟩
  · exact ⟨s.setV x (rand &&& nn), rfl, s.getV_setV_same x _, (State.onlyChanges.refl s _).setV _ rfl⟩
  · exact ⟨s.takeRand.setV x (s.randByte &&& nn), rfl, s.takeRand.getV_setV_same x _, rfl,
      ((State.onlyChanges.refl s _).takeRand (.inr rfl)).setV _ (.inl rfl)⟩

/-! KEY_PRESS and KEY_RELEASE (R100): both are `s.whenRun (s.setKey k b)`. -/

theorem State.onlyChanges.setKey {s t : State} {w : Loc → Prop} (h : s.onlyChanges t w) {k : Nibble} (b : Bool)
    (hw : w (.key k)) : s.onlyChanges (t.setKey k b) w := by
  refine h.trans fun l hl => ?_
  cases l with
  | key j =>
    have hne : j ≠ k := fun e => hl (e ▸ hw)
    exact (keyDown_setKey t k j b).trans (if_neg hne)
  | _ => rfl

theorem State.setKey_setKey (s : State) (k : Nibble) (b : Bool) : (s.setKey k b).setKey k b = s.setKey k b := by
  simp [State.setKey]

theorem keyDown_keyEvent {s : State} (hrun : s.runState = .run) (k : Nibble) (b : Bool) :
    keyDown (s.whenRun (s.setKey k b)).key k = b := by
  rw [State.whenRun_run _ hrun, keyDown_setKey, if_pos rfl]

theorem State.onlyChanges_keyEvent (s : State) (k : Nibble) (b : Bool) :
    s.onlyChanges (s.whenRun (s.setKey k b)) (· = .key k) := by
  rcases s.whenRun_cases (s.setKey k b) with ⟨-, e⟩ | e <;> rw [e]
  · exact (State.onlyChanges.refl s _).setKey b rfl
  · exact .refl s _

theorem State.keyEvent_idem (s : State) (k : Nibble) (b : Bool) :
    (s.whenRun (s.setKey k b)).whenRun ((s.whenRun (s.setKey k b)).setKey k b) = s.whenRun (s.setKey k b) := by
  rcases s.whenRun_cases (s.setKey k b) with ⟨hrun, e⟩ | e <;> rw [e]
  · rw [State.setKey_setKey, State.whenRun_run (s := s.setKey k b) _ hrun]
  · exact e

/-- Settles O51, by the facts about a key event of either kind. -/
theorem keyEventsSetOneKey : Obligations.KeyEventsSetOneKey := fun s k =>
  ⟨fun hrun => ⟨keyDown_keyEvent hrun k true, keyDown_keyEvent hrun k false, s.onlyChanges_keyEvent k true,
      s.onlyChanges_keyEvent k false⟩,
    s.keyEvent_idem k true, s.keyEvent_idem k false,
    fun hr => ⟨State.whenRun_halted _ hr, State.whenRun_halted _ hr⟩, rfl, rfl⟩

/-! The outputs (R101 to R103). -/

/-- Settles O55: `display` is the cell, and the others are comparisons or copies of registers. -/
theorem outputsShowTheState : Obligations.OutputsShowTheState := fun s =>
  ⟨decide_eq_true_iff, s.display_eq_pixel, decide_eq_true_iff, rfl, rfl, rfl⟩

end Sys2Proof.Machine

/-! ## Control transfer (41_flow.md R110 to R119) -/

namespace Sys2Proof.Machine

/-! The encodings: a word is the format's instruction when it has the bits the format fixes (30_encoding.md R72, R75). -/

/-- A category that is one instruction of format NNN, whatever the other fields are. -/
theorem encodedNNN_of_decodeFields {bits : Word} {mk : Addr → Instr}
    (h : ∀ x y n nn nnn, decodeFields (fieldC bits) x y n nn nnn = some (mk nnn)) (hbits : bits &&& 0xF000 = bits) :
    EncodedNNN bits mk := by
  intro w hw
  rw [decodeWord, fieldC_eq_of_and_top (hw.trans hbits.symm)]
  exact h _ _ _ _ _

/-- A category and an N that are one instruction of format XY. -/
theorem encodedXY_of_decodeFields {bits : Word} {mk : Nibble → Nibble → Instr}
    (h : ∀ x y nn nnn, decodeFields (fieldC bits) x y (fieldN bits) nn nnn = some (mk x y))
    (hbits : bits &&& 0xF00F = bits) : EncodedXY bits mk := by
  intro w hw
  obtain ⟨hC, hN⟩ := fields_eq_of_and_xy (hw.trans hbits.symm)
  rw [decodeWord, hC, hN]
  exact h _ _ _ _

/-- A category and an NN that are one instruction of format X. -/
theorem encodedX_of_decodeFields {bits : Word} {mk : Nibble → Instr}
    (h : ∀ x y n nnn, decodeFields (fieldC bits) x y n (fieldNN bits) nnn = some (mk x))
    (hbits : bits &&& 0xF0FF = bits) : EncodedX bits mk := by
  intro w hw
  obtain ⟨hC, hNN⟩ := fields_eq_of_and_x (hw.trans hbits.symm)
  rw [decodeWord, hC, hNN]
  exact h _ _ _ _

/-! Call and return: where SP names an entry, the push and the pop. -/

theorem exec2NNN_of_lt (nnn : Addr) {s : State} (h : s.sp.toNat < 16) :
    exec2NNN nnn s = .next { s with stack := s.stack.set s.sp.toNat s.pc h, sp := s.sp + 1, pc := nnn } := by
  rcases exec2NNN_cases nnn s with ⟨h16, -⟩ | ⟨_, e⟩ | ⟨hlt, -⟩
  · rw [h16] at h; exact absurd h (by decide)
  · exact e
  · omega

theorem exec00EE_of_succ {s : State} {j : Nibble} (h : s.sp.toNat = j.toNat + 1) :
    exec00EE s = .next { s with sp := s.sp - 1, pc := s.stack[j.toNat]'j.isLt } := by
  have hj : (s.sp - 1).toNat = j.toNat := by bv_omega
  rcases exec00EE_cases s with ⟨h0, -⟩ | ⟨_, -, e⟩ | ⟨hlt, -⟩
  · rw [h0] at h; cases h
  · simpa only [hj] using e
  · omega

/-- Settles O26: the pop reads the entry the push has written, under the SP the push has left. -/
theorem callThenReturnComesBack : Obligations.CallThenReturnComesBack := by
  intro s t u nnn hlt h hstack hsp
  cases (exec2NNN_of_lt nnn hlt).symm.trans h
  have hj : (s.sp.setWidth 4).toNat = s.sp.toNat := by rw [BitVec.toNat_setWidth]; omega
  have hback : u.sp - 1 = s.sp := by rw [hsp]; exact BitVec.add_sub_cancel _ _
  have hpop := exec00EE_of_succ (s := u) (j := s.sp.setWidth 4) (by rw [hsp, hj]; bv_omega)
  have hentry : u.stack[(s.sp.setWidth 4).toNat] = s.pc := by simp only [hj, hstack, Vector.getElem_set_self]
  rw [hback, hentry] at hpop
  exact hpop

/-- Settles O23, from the pop and the test for an empty stack. -/
theorem returnPopsOrUnderflows : Obligations.ReturnPopsOrUnderflows :=
  ⟨decodeWord_encode .op00EE, fun _ => ⟨fun _ => exec00EE_of_succ, fun h0 => if_pos h0⟩⟩

/-- Settles O25, from the push, whose frame holds in RUN and in HALTED, and the test for a full stack. -/
theorem callPushesOrOverflows : Obligations.CallPushesOrOverflows := by
  refine ⟨encodedNNN_of_decodeFields (fun _ _ _ _ _ => rfl) (by decide), fun nnn s => ⟨fun j hj => ?_, fun h16 => ?_⟩⟩
  · have hlt : s.sp.toNat < 16 := hj ▸ j.isLt
    have hpush := (State.onlyChanges.refl s (fun l => l = .stackAt j ∨ l = .sp ∨ l = .pc)).setStack s.pc (.inl rfl)
    refine ⟨_, exec2NNN_of_lt nnn hlt, ?_, ?_, rfl, ?_⟩
    · simp only [hj, Vector.getElem_set_self]
    · show (s.sp + 1).toNat = j.toNat + 1
      bv_omega
    · simp only [hj]
      exact (hpush.setSp _ (.inr (.inl rfl))).setPc _ (.inr (.inr rfl))
  · exact if_pos h16

/-! Jumps. -/

/-- Settles O24: 1NNN is one write of PC. -/
theorem jumpSetsPc : Obligations.JumpSetsPc :=
  ⟨encodedNNN_of_decodeFields (fun _ _ _ _ _ => rfl) (by decide), fun _ _ => rfl⟩

/-- The top nibble of NNN. -/
theorem jumpRegister_eq (nnn : Addr) : jumpRegister nnn = BitVec.ofNat 4 (nnn.toNat / 256) := by
  apply BitVec.eq_of_toNat_eq
  rw [jumpRegister, BitVec.extractLsb'_toNat, BitVec.toNat_ofNat, Nat.shiftRight_eq_div_pow]

theorem execBNNN_of_jumpOffset {s : State} {nnn : Addr} {b : Byte} (h : s.jumpOffset nnn = b) :
    execBNNN nnn s = .next { s with pc := BitVec.ofNat 12 ((nnn.toNat + b.toNat) % 4096) } := by
  have hmod : nnn + b.setWidth 12 = BitVec.ofNat 12 ((nnn.toNat + b.toNat) % 4096) := by
    rw [add_setWidth_byte]; bv_omega
  rw [execBNNN, h, hmod]
  rfl

/-- Settles O29, by the offset of each quirk value. -/
theorem jumpWithOffset : Obligations.JumpWithOffset := by
  refine ⟨encodedNNN_of_decodeFields (fun _ _ _ _ _ => rfl) (by decide), fun nnn s => ⟨fun hq => ?_, fun hq => ?_⟩⟩
  · exact execBNNN_of_jumpOffset (by simp [State.jumpOffset, hq])
  · exact execBNNN_of_jumpOffset (by simp [State.jumpOffset, hq, jumpRegister_eq])

/-! Conditional skips (R113 to R116, 45_keypad_timers.md R190, R191): each is `skipIf` of a test of its condition. -/

theorem next_skipIf_of_iff (s : State) {b : Bool} {p : Prop} [Decidable p] (h : b = true ↔ p) :
    (.next (s.skipIf b) : Result) = .next { s with pc := if p then s.pc + 2 else s.pc } := by
  cases b with
  | true => rw [if_pos (h.1 rfl)]; rfl
  | false => rw [if_neg fun hp => Bool.false_ne_true (h.2 hp)]; rfl

/-- A register names a key by its low nibble. -/
theorem keyDown_keyIndex (keys : KeySet) (b : Byte) :
    keyDown keys (keyIndex b) = keys[b.toNat % 16]'(Nat.mod_lt _ (by decide)) := by
  have hk : (keyIndex b).toNat = b.toNat % 16 := BitVec.extractLsb'_toNat 0 4 b
  simp only [keyDown, hk]

/-- Settles O28: what each of the six tests means. -/
theorem conditionalSkips : Obligations.ConditionalSkips := by
  refine ⟨encodedXNN_of_decodeFields (fun _ _ _ _ _ => rfl) (by decide),
    encodedXNN_of_decodeFields (fun _ _ _ _ _ => rfl) (by decide),
    encodedXY_of_decodeFields (fun _ _ _ _ => rfl) (by decide),
    encodedXY_of_decodeFields (fun _ _ _ _ => rfl) (by decide),
    encodedX_of_decodeFields (fun _ _ _ _ => rfl) (by decide),
    encodedX_of_decodeFields (fun _ _ _ _ => rfl) (by decide), fun s x y nn => ?_⟩
  have hkey := keyDown_keyIndex s.key (s.getV x)
  exact ⟨next_skipIf_of_iff s beq_iff_eq, next_skipIf_of_iff s bne_iff_ne, next_skipIf_of_iff s beq_iff_eq,
    next_skipIf_of_iff s bne_iff_ne, next_skipIf_of_iff s (by rw [hkey]),
    next_skipIf_of_iff s (by rw [hkey, Bool.not_eq_true'])⟩

end Sys2Proof.Machine

/-! ## Register arithmetic and logic (42_alu.md R130 to R140) -/

namespace Sys2Proof.Machine

/-! What the two forms of a register instruction leave: one write of VX, or a result and then the flag. -/

/-- The next state of an instruction that only writes VX: what holds of the byte written holds of VX. -/
theorem exists_next_setV (s : State) (x : Nibble) {b : Byte} {p : Byte → Prop} (hb : p b) :
    ∃ t, (.next (s.setV x b) : Result) = .next t ∧ p (t.getV x) ∧ s.onlyChanges t (fun l => l = .v x) :=
  ⟨s.setV x b, rfl, (s.getV_setV_same x b).symm ▸ hb, (State.onlyChanges.refl s _).setV b rfl⟩

/-- The next state of an instruction that writes VX and then VF: with X = F the flag is what remains (R147). -/
theorem exists_next_setResultAndFlag (s : State) (x : Nibble) {b : Byte} {f : Bool} {n : Nat} {p : Byte → Prop}
    (hb : b.toNat = n) (hf : p (flagByte f)) :
    ∃ t, (.next (s.setResultAndFlag x b f) : Result) = .next t ∧ (x ≠ 0xF → (t.getV x).toNat = n) ∧
      p (t.getV 0xF) ∧ s.onlyChanges t (fun l => l = .v x ∨ l = .v 0xF) := by
  refine ⟨s.setResultAndFlag x b f, rfl, fun hx => ?_, ?_,
    (State.onlyChanges.refl s _).setResultAndFlag b f (.inl rfl) (.inr rfl)⟩
  · rw [State.getV_setResultAndFlag, if_neg hx, if_pos rfl, hb]
  · rwa [State.getV_setResultAndFlag, if_pos rfl]

/-! The flags and the results as numbers. -/

theorem flagByte_decide (p : Prop) [Decidable p] : flagByte (decide p) = if p then 1 else 0 := by
  simp [flagByte]

theorem flagByte_toNat (b : Bool) : (flagByte b).toNat = b.toNat := by
  cases b <;> rfl

theorem flagByte_rightShiftOut_toNat (t : Byte) : (flagByte (rightShiftOut t)).toNat = t.toNat % 2 := by
  rw [flagByte_toNat, rightShiftOut, BitVec.getLsbD, Nat.toNat_testBit, Nat.pow_zero, Nat.div_one]

theorem flagByte_leftShiftOut_toNat (t : Byte) : (flagByte (leftShiftOut t)).toNat = t.toNat / 128 := by
  rw [flagByte_toNat, leftShiftOut, BitVec.getLsbD, Nat.toNat_testBit]
  omega

theorem byte_sub_toNat (a b : Byte) : (a - b).toNat = (a.toNat + 256 - b.toNat) % 256 := by
  bv_omega

theorem byte_shiftLeft_one_toNat (t : Byte) : (t <<< 1).toNat = t.toNat * 2 % 256 := by
  rw [BitVec.toNat_shiftLeft, Nat.shiftLeft_eq]

/-- Settles O32: each of the six is one write of VX. -/
theorem loadCopyAddAndLogic : Obligations.LoadCopyAddAndLogic := by
  refine ⟨encodedXNN_of_decodeFields (fun _ _ _ _ _ => rfl) (by decide),
    encodedXNN_of_decodeFields (fun _ _ _ _ _ => rfl) (by decide),
    encodedXY_of_decodeFields (fun _ _ _ _ => rfl) (by decide),
    encodedXY_of_decodeFields (fun _ _ _ _ => rfl) (by decide),
    encodedXY_of_decodeFields (fun _ _ _ _ => rfl) (by decide),
    encodedXY_of_decodeFields (fun _ _ _ _ => rfl) (by decide), fun s x y nn => ?_⟩
  exact ⟨exists_next_setV s x (p := (· = nn)) rfl,
    exists_next_setV s x (p := (·.toNat = _)) (BitVec.toNat_add (s.getV x) nn),
    exists_next_setV s x (p := (· = s.getV y)) rfl, exists_next_setV s x (p := (· = s.getV x ||| s.getV y)) rfl,
    exists_next_setV s x (p := (· = s.getV x &&& s.getV y)) rfl,
    exists_next_setV s x (p := (· = s.getV x ^^^ s.getV y)) rfl⟩

/-- Settles O33: the sum of two bytes is modulo 256, and the carry is computed from the unbounded sum. -/
theorem addWithCarryOut : Obligations.AddWithCarryOut :=
  ⟨encodedXY_of_decodeFields (fun _ _ _ _ => rfl) (by decide), fun s x y =>
    exists_next_setResultAndFlag s x (p := (· = _)) (BitVec.toNat_add (s.getV x) (s.getV y)) (flagByte_decide _)⟩

/-- Settles O34: 8XY5 and 8XY7 are one subtraction with its operands exchanged. -/
theorem subtractBothWays : Obligations.SubtractBothWays :=
  ⟨encodedXY_of_decodeFields (fun _ _ _ _ => rfl) (by decide),
    encodedXY_of_decodeFields (fun _ _ _ _ => rfl) (by decide), fun s x y =>
    ⟨exists_next_setResultAndFlag s x (p := (· = _)) (byte_sub_toNat (s.getV x) (s.getV y)) (flagByte_decide _),
      exists_next_setResultAndFlag s x (p := (· = _)) (byte_sub_toNat (s.getV y) (s.getV x)) (flagByte_decide _)⟩⟩

/-- Settles O35: both shifts act on `shiftSource`, which is the value the quirk names. -/
theorem shiftsByOne : Obligations.ShiftsByOne := by
  refine ⟨encodedXY_of_decodeFields (fun _ _ _ _ => rfl) (by decide),
    encodedXY_of_decodeFields (fun _ _ _ _ => rfl) (by decide), fun s x y v hv => ?_⟩
  obtain rfl : v = s.shiftSource x y := hv
  exact ⟨exists_next_setResultAndFlag s x (p := (·.toNat = _)) (BitVec.toNat_ushiftRight (s.shiftSource x y) 1)
      (flagByte_rightShiftOut_toNat _),
    exists_next_setResultAndFlag s x (p := (·.toNat = _)) (byte_shiftLeft_one_toNat (s.shiftSource x y))
      (flagByte_leftShiftOut_toNat _)⟩

end Sys2Proof.Machine

/-! ## The index register and memory (43_index_memory.md R150 to R156) -/

namespace Sys2Proof.Machine

theorem State.onlyChanges.mono {s t : State} {w w' : Loc → Prop} (h : s.onlyChanges t w) (hw : ∀ l, w l → w' l) :
    s.onlyChanges t w' := fun l hl => h l (mt (hw l) hl)

/-! Writes of I (R150 to R152). -/

/-- The next state of an instruction that only writes I. -/
theorem exists_next_setI (s : State) {a : Word} {n : Nat} (ha : a.toNat = n) :
    ∃ t, (.next (s.setI a) : Result) = .next t ∧ t.i.toNat = n ∧ s.onlyChanges t (fun l => l = .i) :=
  ⟨s.setI a, rfl, ha, (State.onlyChanges.refl s _).setI a rfl⟩

/-- A glyph's address is far below 65536. -/
theorem glyphAddress_toNat (b : Byte) : (glyphAddress b).toNat = 0x050 + b.toNat % 16 * 5 := by
  rw [glyphAddress, Config.fontBase, BitVec.toNat_ofNat]
  omega

/-- Settles O37: both are one write of I. -/
theorem indexLoads : Obligations.IndexLoads :=
  ⟨encodedNNN_of_decodeFields (fun _ _ _ _ _ => rfl) (by decide),
    encodedX_of_decodeFields (fun _ _ _ _ => rfl) (by decide), fun s nnn x =>
    ⟨exists_next_setI s (BitVec.toNat_setWidth_of_le (by decide)), exists_next_setI s (glyphAddress_toNat _)⟩⟩

theorem word_add_byte_toNat (w : Word) (b : Byte) : (w + b.setWidth 16).toNat = (w.toNat + b.toNat) % 65536 := by
  rw [BitVec.toNat_add, BitVec.toNat_setWidth_of_le (by decide)]

/-- The test FX1E makes, on numbers (R151). -/
theorem execFX1E_eq (x : Nibble) (s : State) : execFX1E x s =
    .next (if s.quirks.addISetsVf = true ∧ s.i.toNat + (s.getV x).toNat > 0x0FFF then
      (s.setI (s.i + (s.getV x).setWidth 16)).setFlag true else s.setI (s.i + (s.getV x).setWidth 16)) := by
  simp only [execFX1E, indexOverflow, Bool.and_eq_true, decide_eq_true_eq]

/-- Settles O38: the sum goes to I, and VF is written after it only where the quirk's condition holds. -/
theorem addToIndex : Obligations.AddToIndex := by
  refine ⟨encodedX_of_decodeFields (fun _ _ _ _ => rfl) (by decide), fun s x => ⟨_, execFX1E_eq x s, ?_⟩⟩
  have hsum := word_add_byte_toNat s.i (s.getV x)
  have hframe : s.onlyChanges (s.setI (s.i + (s.getV x).setWidth 16)) (fun l => l = .i ∨ l = .v 0xF) :=
    (State.onlyChanges.refl s _).setI _ (.inl rfl)
  split
  · exact ⟨hsum, State.getV_setV_same _ _ _, hframe.setFlag true (.inr rfl)⟩
  · exact ⟨hsum, rfl, hframe⟩

/-! Stores and loads (R153 to R155). -/

/-- Each digit fits a byte. -/
theorem bcdDigit_toNat (b : Byte) : (bcdDigit b 0).toNat = b.toNat / 100 ∧
    (bcdDigit b 1).toNat = b.toNat / 10 % 10 ∧ (bcdDigit b 2).toNat = b.toNat % 10 := by
  simp only [bcdDigit, BitVec.toNat_ofNat]
  omega

/-- Settles O39: the bytes stored are the three digits. -/
theorem storeDecimalDigits : Obligations.StoreDecimalDigits := by
  refine ⟨encodedX_of_decodeFields (fun _ _ _ _ => rfl) (by decide), fun s x => ⟨_, rfl,
    State.onlyChanges_storeBytes _ fun k hk => ⟨k, hk, rfl⟩, fun hm => ?_⟩⟩
  have hread : ∀ k < 3, (s.storeBytes (bcdDigit (s.getV x)) 3).memRead (s.ea k) = bcdDigit (s.getV x) k :=
    fun k hk => State.memRead_storeBytes _ hm (by decide) hk
  rw [hread 0 (by decide), hread 1 (by decide), hread 2 (by decide)]
  exact bcdDigit_toNat _

/-- Where I stands after FX55 and FX65. -/
theorem State.bumpIndex_i_toNat (s : State) (x : Nibble) : (s.bumpIndex x).i.toNat =
    if s.quirks.loadStoreIncrementsI = true then (s.i.toNat + x.toNat + 1) % 65536 else s.i.toNat := by
  rw [State.bumpIndex_i]
  split
  · bv_omega
  · rfl

/-- Settles O40: the stored bytes, and then the move of I. -/
theorem storeRegisters : Obligations.StoreRegisters := by
  refine ⟨encodedX_of_decodeFields (fun _ _ _ _ => rfl) (by decide), fun s x => ⟨_, rfl, ?_, ?_, fun hm k hk => ?_⟩⟩
  · refine (execFX55_onlyChanges rfl).mono fun l hl => ?_
    rcases hl with hbyte | ⟨-, hi⟩
    · exact .inr hbyte
    · exact .inl hi
  · rw [State.bumpIndex_i_toNat, State.storeBytes_quirks, State.storeBytes_i]
  · rw [memRead_ea_of_exec_FX55 hm rfl hk, BitVec.ofNat_toNat, BitVec.setWidth_eq]

/-- FX65 loads V[k] from EA(k), for every k up to X; the move of I leaves the registers as they are. -/
theorem getV_of_exec_FX65 {s t : State} {x k : Nibble} (h : exec (.opFX65 x) s = .next t) (hk : k.toNat ≤ x.toNat) :
    t.getV k = s.memRead (s.ea k.toNat) := by
  cases h
  rw [State.getV_bumpIndex, State.getV_loadRegs s (by omega), if_pos (by omega)]

/-- With the quirk off FX55 leaves I, and with it every data address, as it was. -/
theorem ea_of_exec_FX55 {s t : State} {x : Nibble} (hq : s.quirks.loadStoreIncrementsI = false)
    (h : exec (.opFX55 x) s = .next t) (k : Nat) : t.ea k = s.ea k := by
  cases h
  exact State.ea_congr (by simp [hq]) k

/-- Settles O41: the loaded registers, and then the move of I. Loading back reads the addresses that were stored to. -/
theorem loadRegisters : Obligations.LoadRegisters := by
  refine ⟨encodedX_of_decodeFields (fun _ _ _ _ => rfl) (by decide),
    fun s x => ⟨_, rfl, fun k hk => getV_of_exec_FX65 rfl hk, ?_, ?_⟩,
    fun s t x regs hm hq h => ⟨_, rfl, fun k hk => ?_⟩⟩
  · refine (execFX65_onlyChanges rfl).mono fun l hl => ?_
    rcases hl with hreg | ⟨-, hi⟩
    · cases l with
      | v k => exact .inr ⟨k, Nat.le_of_lt_succ hreg, rfl⟩
      | _ => exact hreg.elim
    · exact .inl hi
  · rw [State.bumpIndex_i_toNat, State.loadRegs_quirks, State.loadRegs_i]
  · calc _ = t.memRead (t.ea k.toNat) := getV_of_exec_FX65 (s := { t with v := regs }) rfl hk
      _ = t.memRead (s.ea k.toNat) := by rw [ea_of_exec_FX55 hq h]
      _ = s.getV (BitVec.ofNat 4 k.toNat) := memRead_ea_of_exec_FX55 hm h hk
      _ = s.getV k := by rw [BitVec.ofNat_toNat, BitVec.setWidth_eq]

end Sys2Proof.Machine

/-! ## The display (44_display.md R170 to R173) -/

namespace Sys2Proof.Machine

/-- A category that is one instruction of format XYN. -/
theorem encodedXYN_of_decodeFields {bits : Word} {mk : Nibble → Nibble → Nibble → Instr}
    (h : ∀ x y n nn nnn, decodeFields (fieldC bits) x y n nn nnn = some (mk x y n)) (hbits : bits &&& 0xF000 = bits) :
    EncodedXYN bits mk := by
  intro w hw
  rw [decodeWord, fieldC_eq_of_and_top (hw.trans hbits.symm)]
  exact h _ _ _ _ _

/-- Settles O42: 00E0 is one write of the framebuffer. -/
theorem clearScreen : Obligations.ClearScreen :=
  ⟨decodeWord_encode .op00E0, fun s => ⟨_, rfl, fun r c => (State.display_eq_pixel _ r c).trans (pixel_clear _ _),
    (State.onlyChanges.refl s _).setFb _ fun _ _ => trivial⟩⟩

/-- Settles O44: the words fix N = 0, where the meaning draws nothing. -/
theorem drawOfZeroRowsDoesNothing : Obligations.DrawOfZeroRowsDoesNothing := by
  refine ⟨fun w hw => ?_, fun s x y => rfl⟩
  obtain ⟨hC, hN⟩ := fields_eq_of_and_xy (hw.trans (by decide : (0xD000 : Word) = 0xD000 &&& 0xF00F))
  rw [decodeWord, hC, hN]
  rfl

/-! The draw against the set S of R173. -/

/-- The set S, by the sprite's row and column: bit k of row j lies at (VY mod 32 + j, VX mod 64 + k), where that is a
cell of the screen. -/
theorem State.spriteAt_iff {s : State} {x y n : Nibble} {r c : Nat} : s.spriteAt x y n r c = true ↔
    ∃ j < n.toNat, ∃ k < 8, r = (s.getV y).toNat % 32 + j ∧ c = (s.getV x).toNat % 64 + k ∧ r < 32 ∧ c < 64 ∧
      spriteBit (s.spriteRow j) k = true := by
  simp only [State.spriteAt, Bool.and_eq_true, decide_eq_true_eq]
  constructor
  · rintro ⟨⟨hr, hc, hy, hj, hx, hk⟩, hbit⟩
    exact ⟨r - (s.getV y).toNat % 32, by omega, c - (s.getV x).toNat % 64, by omega, by omega, by omega, hr, hc, hbit⟩
  · rintro ⟨j, hj, k, hk, rfl, rfl, hr, hc, hbit⟩
    refine ⟨by omega, ?_⟩
    rw [Nat.add_sub_cancel_left, Nat.add_sub_cancel_left]
    exact hbit

/-- The draw of R171 toggles exactly the cells of S. -/
theorem State.drawSprite_pixel (s : State) (x y n : Nibble) (r c : Nat) :
    pixel (s.drawSprite x y n).fb r c = (pixel s.fb r c ^^ s.spriteAt x y n r c) := by
  rw [State.drawSprite, Canvas.drawRows_pixel]
  congr 1
  rw [Bool.eq_iff_iff, decide_eq_true_eq]
  simp only [State.spriteAt, Bool.and_eq_true, decide_eq_true_eq]
  constructor
  · rintro ⟨⟨hy, hj, hr⟩, hx, hk, hc, hbit⟩
    exact ⟨⟨hr, hc, hy, hj, hx, hk⟩, hbit⟩
  · rintro ⟨⟨hr, hc, hy, hj, hx, hk⟩, hbit⟩
    exact ⟨⟨hy, hj, hr⟩, hx, hk, hc, hbit⟩

/-- It records a collision exactly when a cell of S was lit. -/
theorem State.drawSprite_hit {s : State} {x y n : Nibble} : (s.drawSprite x y n).hit = true ↔
    ∃ (r : BitVec 5) (c : BitVec 6), s.display r c = true ∧ s.spriteAt x y n r.toNat c.toNat = true := by
  rw [State.drawSprite, Canvas.drawRows_hit]
  simp only [Bool.false_eq_true, false_or, State.display_eq_pixel, State.spriteAt_iff]
  constructor
  · rintro ⟨j, hj, hr, k, hk, hc, hbit, hlit⟩
    exact ⟨BitVec.ofNatLT _ hr, BitVec.ofNatLT _ hc, hlit, j, hj, k, hk, rfl, rfl, hr, hc, hbit⟩
  · rintro ⟨r, c, hlit, j, hj, k, hk, hrow, hcol, hr, hc, hbit⟩
    rw [hrow, hcol] at hlit
    exact ⟨j, hj, hrow ▸ hr, k, hk, hcol ▸ hc, hbit, hlit⟩

theorem flagByte_eq_one_iff {b : Bool} : flagByte b = 1 ↔ b = true := by
  cases b <;> decide

/-- DXYN with at least one row draws, and then writes VF. -/
theorem exec_DXYN_of_ne {n : Nibble} (hn : n ≠ 0) (x y : Nibble) (s : State) : exec (.opDXYN x y n) s =
    .next ({ s with fb := (s.drawSprite x y n).fb }.setFlag (s.drawSprite x y n).hit) := if_neg hn

section
variable {s t : State} {x y n : Nibble} (hn : n ≠ 0) (h : exec (.opDXYN x y n) s = .next t)
include hn h

theorem display_of_exec_DXYN (r : BitVec 5) (c : BitVec 6) :
    t.display r c = (s.display r c ^^ s.spriteAt x y n r.toNat c.toNat) := by
  cases (exec_DXYN_of_ne hn x y s).symm.trans h
  simp only [State.display_eq_pixel, State.setFlag_fb, State.drawSprite_pixel]

theorem getV_vf_of_exec_DXYN : t.getV 0xF = flagByte (s.drawSprite x y n).hit := by
  cases (exec_DXYN_of_ne hn x y s).symm.trans h
  exact State.getV_setV_same _ _ _

theorem getV_vf_eq_one_of_exec_DXYN : t.getV 0xF = 1 ↔
    ∃ (r : BitVec 5) (c : BitVec 6), s.display r c = true ∧ s.spriteAt x y n r.toNat c.toNat = true := by
  rw [getV_vf_of_exec_DXYN hn h, flagByte_eq_one_iff, State.drawSprite_hit]

end

/-- Settles O43, from the cells the draw toggles and the collisions it records. -/
theorem drawIsXorOfTheClippedSprite : Obligations.DrawIsXorOfTheClippedSprite := by
  refine ⟨encodedXYN_of_decodeFields (fun _ _ _ _ _ => rfl) (by decide), fun s x y n hn => ?_⟩
  have h := exec_DXYN_of_ne hn x y s
  refine ⟨_, h, display_of_exec_DXYN hn h, (getV_vf_eq_one_of_exec_DXYN hn h).2, fun hclear => ?_,
    (execDXYN_onlyChanges h).mono fun _ => And.right⟩
  have hmiss : (s.drawSprite x y n).hit = false := by
    rw [← Bool.not_eq_true, State.drawSprite_hit]
    rintro ⟨r, c, hlit, hat⟩
    exact Bool.false_ne_true ((hclear r c hlit).symm.trans hat)
  rw [getV_vf_of_exec_DXYN hn h, hmiss, flagByte_false]

/-- S is read from VX, VY, I and memory, and a draw writes none of them but VF. -/
theorem spriteAt_of_exec_DXYN {s t : State} {x y n : Nibble} (hx : x ≠ 0xF) (hy : y ≠ 0xF)
    (h : exec (.opDXYN x y n) s = .next t) : t.spriteAt x y n = s.spriteAt x y n := by
  have frame : s.onlyChanges t (fun l => l.isCell ∨ l = .v 0xF) := (execDXYN_onlyChanges h).mono fun _ => And.right
  have hvx : t.getV x = s.getV x := frame (.v x) (by simpa [Loc.isCell] using hx)
  have hvy : t.getV y = s.getV y := frame (.v y) (by simpa [Loc.isCell] using hy)
  have hi : t.i = s.i := frame .i (by simp [Loc.isCell])
  have hmem : ∀ a, t.memRead a = s.memRead a := fun a => frame (.byte a) (by simp [Loc.isCell])
  funext r c
  simp only [State.spriteAt, hvx, hvy, State.ea_congr hi, hmem]

/-- Settles O45: both draws toggle the same S, so the second hits the cells of S that the first has lit. -/
theorem drawingTwiceErases : Obligations.DrawingTwiceErases := by
  intro s t u x y n hx hy hn h h'
  have ht := display_of_exec_DXYN hn h
  have hS := spriteAt_of_exec_DXYN hx hy h
  refine ⟨State.fb_congr fun r c => ?_, (getV_vf_eq_one_of_exec_DXYN hn h').trans ?_⟩
  · rw [display_of_exec_DXYN hn h', hS, ht, Bool.xor_assoc, Bool.xor_self, Bool.xor_false]
  · refine exists_congr fun r => exists_congr fun c => ?_
    rw [hS, ht]
    cases s.display r c <;> simp

end Sys2Proof.Machine

/-! ## Keypad and timers (45_keypad_timers.md R192 to R195), and the steady states -/

namespace Sys2Proof.Machine

/-! FX0A (R193): whether a key is down decides between waiting and loading. -/

theorem execFX0A_of_no_key (x : Nibble) {s : State} (h : ∀ k, keyDown s.key k = false) :
    execFX0A x s = .next (s.setPc (s.pc - 2)) := by
  rcases execFX0A_cases x s with ⟨-, e⟩ | ⟨k, hk, -⟩
  · exact e
  · exact absurd ((h k).symm.trans (selectKey_mem hk)) Bool.false_ne_true

theorem execFX0A_of_key (x : Nibble) {s : State} (h : ∃ k, keyDown s.key k = true) :
    ∃ k, selectKey s.keySelect s.key = some k ∧ execFX0A x s = .next (s.setV x (k.setWidth 8)) := by
  rcases execFX0A_cases x s with ⟨hnone, -⟩ | hload
  · obtain ⟨j, hj⟩ := h
    exact absurd (((selectKey_eq_none _ _).1 hnone j).symm.trans hj) Bool.false_ne_true
  · exact hload

/-- Settles O47: the wait is one write of PC, the load one write of VX with the selected key. -/
theorem keyWait : Obligations.KeyWait := by
  refine ⟨encodedX_of_decodeFields (fun _ _ _ _ => rfl) (by decide),
    fun s x => ⟨execFX0A_of_no_key x, fun hdown => ?_⟩⟩
  obtain ⟨k, hk, e⟩ := execFX0A_of_key x hdown
  refine ⟨_, k, e, hk, selectKey_mem hk, ?_, fun hdefault j => ?_, (State.onlyChanges.refl s _).setV _ rfl⟩
  · rw [State.getV_setV_same, BitVec.toNat_setWidth_of_le (by decide)]
  · rw [hdefault] at hk
    exact lowestKey_le hk

/-- Settles O46: each of the three is one write, and `soundActive` compares the new ST with 0. -/
theorem timerInstructions : Obligations.TimerInstructions :=
  ⟨encodedX_of_decodeFields (fun _ _ _ _ => rfl) (by decide),
    encodedX_of_decodeFields (fun _ _ _ _ => rfl) (by decide),
    encodedX_of_decodeFields (fun _ _ _ _ => rfl) (by decide), fun s x =>
    ⟨exists_next_setV s x (p := (· = s.dt)) rfl,
      ⟨s.setDt (s.getV x), rfl, rfl, (State.onlyChanges.refl s _).setDt _ rfl⟩,
      ⟨s.setSt (s.getV x), rfl, rfl, decide_eq_true_iff, (State.onlyChanges.refl s _).setSt _ rfl⟩⟩⟩

/-! The steady states (70_reset_and_hazards.md R259). -/

/-- A state that every STEP keeps is kept by any number of them. -/
theorem runOps_map_step_of_fixed {s : State} (h : ∀ rand, stepWith rand s = .next s) (rands : List Byte) :
    runOps (rands.map .step) s = .next s := by
  induction rands with
  | nil => rfl
  | cons rand rands ih => exact (runOps_cons_next (op := .step rand) (h rand)).trans ih

/-- Going back to the instruction undoes the fetch's increment. -/
theorem State.setPc_advancePc_back (s : State) : s.advancePc.setPc (s.advancePc.pc - 2) = s :=
  congrArg s.setPc (BitVec.add_sub_cancel s.pc 2)

/-- `0x1000 ||| PC` is the word of a jump to PC, and a jump forgets the fetch's increment. -/
theorem stepWith_of_jump_to_self (rand : Byte) {s : State} (hrun : s.runState = .run)
    (hf : s.fetch16 s.pc = some (0x1000 ||| s.pc.setWidth 16)) : stepWith rand s = .next s :=
  stepWith_of_instr rand hrun hf (decodeWord_encode (.op1NNN s.pc))

theorem stepWith_of_key_wait (rand : Byte) {s : State} {w : Word} {x : Nibble} (hrun : s.runState = .run)
    (hf : s.fetch16 s.pc = some w) (hd : decodeWord w = some (.opFX0A x)) (hup : ∀ k, keyDown s.key k = false) :
    stepWith rand s = .next s :=
  calc stepWith rand s = execFX0A x s.advancePc := stepWith_of_instr rand hrun hf hd
    _ = .next (s.advancePc.setPc (s.advancePc.pc - 2)) := execFX0A_of_no_key x hup
    _ = .next s := by rw [s.setPc_advancePc_back]

/-- Settles O31: in both states every STEP, whatever its random byte, leaves the state as it was. -/
theorem fixedPointsOfStep : Obligations.FixedPointsOfStep := fun _ rands hrun =>
  ⟨fun hf => runOps_map_step_of_fixed (fun rand => stepWith_of_jump_to_self rand hrun hf) rands,
    fun _ _ hf hd hup => runOps_map_step_of_fixed (fun rand => stepWith_of_key_wait rand hrun hf hd hup) rands⟩

end Sys2Proof.Machine

/-! ## Faults (60_exceptions.md R210 to R216) -/

namespace Sys2Proof.Machine

/-- The condition R211 gives for each fault, on the state before the STEP; no fault has none. -/
def State.FaultCondition (s : State) : FaultCause → Prop
  | .none => False
  | .unimplementedOpcode => ∃ w, s.fetch16 s.pc = some w ∧ decodeWord w = none
  | .stackOverflow => ∃ w, s.fetch16 s.pc = some w ∧ w &&& 0xF000 = 0x2000 ∧ s.sp = 16
  | .stackUnderflow => s.fetch16 s.pc = some 0x00EE ∧ s.sp = 0
  | .fetchOutOfRange => s.pc = 0xFFF

/-- In RUN a fetched word that does not decode is recorded (R212). -/
theorem step_of_illegal {s : State} {w : Word} (hrun : s.runState = .run) (hf : s.fetch16 s.pc = some w)
    (hd : decodeWord w = none) : step s = .next (s.takeFault .unimplementedOpcode s.pc (some w)) := by
  simp [step, State.fetchDecode, hrun, hf, hd]

/-- In RUN a fault of the execute phase records the address and the word of the fetch (R212). -/
theorem step_of_exec_fault {s : State} {w : Word} {i : Instr} {c : FaultCause} (hrun : s.runState = .run)
    (hf : s.fetch16 s.pc = some w) (hd : decodeWord w = some i)
    (he : exec i s.advancePc = .next (s.advancePc.takeExecFault c i)) :
    step s = .next (s.takeFault c s.pc (some w)) := by
  rw [step_of_instr hrun hf hd, he, State.takeExecFault_advancePc, encode_of_decodeWord hd]

/-- In RUN a fault whose condition holds is taken. -/
theorem step_of_faultCondition {s : State} {c : FaultCause} (hrun : s.runState = .run) (hc : s.FaultCondition c) :
    step s = .next (s.takeFault c s.pc (s.fetch16 s.pc)) := by
  cases c with
  | none => exact hc.elim
  | unimplementedOpcode =>
    obtain ⟨w, hf, hd⟩ := hc
    rw [hf]
    exact step_of_illegal hrun hf hd
  | stackOverflow =>
    obtain ⟨w, hf, hw, hsp⟩ := hc
    rw [hf]
    exact step_of_exec_fault hrun hf (callPushesOrOverflows.1 w hw) (if_pos hsp)
  | stackUnderflow =>
    obtain ⟨hf, hsp⟩ := hc
    rw [hf]
    exact step_of_exec_fault hrun hf (decodeWord_encode .op00EE) (if_pos hsp)
  | fetchOutOfRange =>
    have hf := (s.fetch16_eq_none s.pc).2 hc
    rw [hf]
    exact step_of_no_fetch hrun hf

/-- A truthful record of a fault taken at PC holds the fetched word, and the fault's condition held. -/
theorem State.FaultRecord.faultCondition {s : State} {c : FaultCause} {op : Option Word} (hne : c ≠ .none)
    (h : (s.takeFault c s.pc op).FaultRecord) : op = s.fetch16 s.pc ∧ s.FaultCondition c := by
  cases c with
  | none => exact absurd rfl hne
  | unimplementedOpcode =>
    obtain ⟨-, hop, w, hw, hd⟩ := h
    exact ⟨hop, w, hop.symm.trans hw, hd⟩
  | stackOverflow =>
    obtain ⟨-, hop, hsp, nnn, hw⟩ := h
    exact ⟨hop, _, hop.symm.trans hw, Laws.MatchesRow.wordNNN_and_top _ _, hsp⟩
  | stackUnderflow =>
    obtain ⟨-, hop, hsp, hw⟩ := h
    exact ⟨hop, hop.symm.trans hw, hsp⟩
  | fetchOutOfRange =>
    obtain ⟨-, hpc, hop⟩ := h
    exact ⟨hop.trans ((s.fetch16_eq_none s.pc).2 hpc).symm, hpc⟩

/-- In RUN a STEP that answers a next state takes a fault whose condition holds, or stays in RUN and records none. -/
theorem step_next_cases {s t : State} (hrun : s.runState = .run) (h : step s = .next t) :
    (∃ c, s.FaultCondition c ∧ t = s.takeFault c s.pc (s.fetch16 s.pc)) ∨
    (t.runState = .run ∧ t.faultCause = s.faultCause) := by
  rcases step_outcomes s with ⟨hr, -⟩ | ⟨-, c, op, hne, hrec, e⟩ | ⟨-, -, e⟩ | ⟨-, _, i, _, -, -, he, hcomp, e⟩
  · exact absurd (hrun.symm.trans hr) nofun
  · cases e.symm.trans h
    obtain ⟨rfl, hc⟩ := hrec.faultCondition hne
    exact .inl ⟨c, hc, rfl⟩
  · cases e.symm.trans h
  · cases e.symm.trans h
    exact .inr ⟨hcomp.runState.trans hrun,
      hcomp.onlyChanges hrun he .faultCause (i.not_mayWrite_of_isControl _ trivial)⟩

/-- A STEP records a cause exactly on the cause's condition. -/
theorem step_faultCause_iff {s t : State} (hrun : s.runState = .run) (hnone : s.faultCause = .none)
    (h : step s = .next t) {c : FaultCause} (hne : c ≠ .none) : t.faultCause = c ↔ s.FaultCondition c := by
  constructor
  · rintro rfl
    rcases step_next_cases hrun h with ⟨c, hc, rfl⟩ | ⟨-, hsame⟩
    · exact hc
    · exact absurd (hsame.trans hnone) hne
  · intro hc
    cases (step_of_faultCondition hrun hc).symm.trans h
    rfl

/-- Settles O10: the STEP takes the fault whose condition holds, with the word fetched. -/
theorem faultsRecordTheirDiagnostic : Obligations.FaultsRecordTheirDiagnostic := by
  intro s hrun
  have htaken (c : FaultCause) (hc : s.FaultCondition c) := step_of_faultCondition hrun hc
  refine ⟨fun w hf hd => ?_, fun w hf hw hsp => ?_, fun hf hsp => ?_, fun hpc => ?_, rfl, rfl, rfl, rfl⟩
  · exact hf ▸ htaken .unimplementedOpcode ⟨w, hf, hd⟩
  · exact hf ▸ htaken .stackOverflow ⟨w, hf, hw, hsp⟩
  · exact hf ▸ htaken .stackUnderflow ⟨hf, hsp⟩
  · obtain ⟨-, -, htop⟩ := fetchIsBigEndianAndFaultsAtTheTop s
    exact htop hrun hpc

/-- Settles O11, cause by cause; a STEP that takes no fault stays in RUN. -/
theorem eachFaultExactlyOnItsCondition : Obligations.EachFaultExactlyOnItsCondition := by
  intro s t hrun hnone h
  have hcause {c : FaultCause} (hne : c ≠ .none) := step_faultCause_iff hrun hnone h hne
  refine ⟨hcause nofun, hcause nofun, hcause nofun, hcause nofun, ?_⟩
  rcases step_next_cases hrun h with ⟨c, hc, rfl⟩ | ⟨hrun', hsame⟩
  · exact iff_of_false (fun hn : c = .none => (hn ▸ hc).elim) nofun
  · exact iff_of_true (hsame.trans hnone) hrun'

/-- Settles O12: a STEP that ends HALTED has taken a fault, at the PC of the fetch. -/
theorem faultingStepCommitsNothing : Obligations.FaultingStepCommitsNothing := by
  intro s t hrun h ht
  rcases step_next_cases hrun h with ⟨c, -, rfl⟩ | ⟨hrun', -⟩
  · rfl
  · exact absurd (hrun'.symm.trans ht) nofun

/-- A sequence that ends in a next state went through one at every point of it. -/
theorem runOps_append_eq_next {a b : List Op} {s t : State} (h : runOps (a ++ b) s = .next t) :
    ∃ u, runOps a s = .next u ∧ runOps b u = .next t := by
  rw [runOps_append] at h
  cases e : runOps a s with
  | next u => rw [e] at h; exact ⟨u, rfl, h⟩
  | fault r => rw [e] at h; cases h
  | refused r => rw [e] at h; cases h

/-- Settles O14: from HALTED the operations left end HALTED. -/
theorem safeRunsHaveSafePrefixes : Obligations.SafeRunsHaveSafePrefixes := by
  rintro a b s hb ⟨t, h, ht⟩
  obtain ⟨u, hu, hrest⟩ := runOps_append_eq_next h
  refine ⟨u, hu, ?_⟩
  cases hr : u.runState with
  | run => exact hr
  | halted =>
    cases (runOps_of_halted hb hr).symm.trans hrest
    exact absurd (hr.symm.trans ht) nofun

end Sys2Proof.Machine
